-- ==== Sys2Proof/Word.lean ====
section
/-! DEFINITION. The bit vectors the spec names, each at its own width (00_scope.md R5, R7; 10_state.md R10;
30_encoding.md R42, R47, R48). Everything is unsigned (R7). -/

namespace Sys2Proof

/-- A whole command word, `{op[35:32], operand[31:0]}` (R42). -/
abbrev CommandWord := BitVec 36

/-- The operation selector `op` (R42, R43). -/
abbrev Opcode := BitVec 4

/-- The operation argument `operand` (R42, R44). -/
abbrev Operand := BitVec 32

/-- A mark or space duration in microseconds; `DUR_WIDTH` = 32 (R5). -/
abbrev Duration := BitVec 32

/-- A time in milliseconds; `TIME_WIDTH` = 32 (R5, R24). -/
abbrev Time := BitVec 32

/-- An accumulator half or a decoded field; `FIELD_BITS` = 16 (R5). -/
abbrev Field16 := BitVec 16

/-- A button code; `CODE_BITS` = 8 (R5, R84). -/
abbrev Code := BitVec 8

/-- A capture pin identifier (R12). -/
abbrev Pin := BitVec 8

/-- A response word (R47). -/
abbrev Response := BitVec 32

/-- An event word (R48). -/
abbrev EventWord := BitVec 10

end Sys2Proof
end

