-- ==== Sys2Proof/Config.lean ====
section
/-! DEFINITION. The implementation parameters of 00_scope.md R5. A configuration is fixed for a run and no
operation writes it (10_state.md R29). It reaches the step through the field `cfg` of State, because the host's
step takes no other argument (assumption log 3). -/

namespace Sys2Proof

/-- `FRAME_BITS`: bits per datagram (R5). -/
@[simp] abbrev frameBits : Nat := 32

/-- `FIELD_BITS`: bits of the address word; positions 1..16 go to the high accumulator (R5, R59). -/
@[simp] abbrev fieldBits : Nat := 16

/-- `STUFF_LIMIT`: the last bit position at which vendor-variant stuffing applies; the counter then jumps to
`stuffLimit + 1` (R5, R60). -/
@[simp] abbrev stuffLimit : Nat := 8

/-- The counter value that stands for overrun (R16, R58). -/
@[simp] abbrev overrunCount : Nat := 33

/-- `2 ^ TIME_WIDTH` (R5, R6). -/
@[simp] abbrev timeModulus : Nat := 2 ^ 32

/-- The parameters that differ from part to part: the three thresholds and the OPEN parameters (R5). -/
structure Config where
  /-- `T_BIT1`: the smallest mark+space sum in µs classified as bit 1. -/
  tBit1 : Nat
  /-- `T_SYNC`: the smallest sum in µs classified as a boundary pulse. -/
  tSync : Nat
  /-- `T_LONG`: the smallest boundary sum in µs classified as incomplete rather than repeat. -/
  tLong : Nat
  /-- `REPEAT_TIMEOUT_MS`: the window added to `now_ms`. OPEN. -/
  repeatTimeoutMs : Nat
  /-- `TICK_PERIOD_MS`: the environment's cadence; no rule reads it (R88). OPEN. -/
  tickPeriodMs : Nat
  /-- `BUTTON_TABLE`: button symbols and their codes, read only by the host-side lookup (R102). OPEN. -/
  buttonTable : List (String × Nat)
deriving DecidableEq, Repr

/-- This hardware's thresholds (R5, D11) with the OPEN parameters left as arguments. -/
def Config.withOpen (repeatTimeoutMs tickPeriodMs : Nat) (buttonTable : List (String × Nat)) : Config where
  tBit1 := 1600
  tSync := 2700
  tLong := 12500
  repeatTimeoutMs := repeatTimeoutMs
  tickPeriodMs := tickPeriodMs
  buttonTable := buttonTable

/-- The configuration State.reset names. DESIGN CHOICE (assumption log 3, unsafe): the OPEN parameters take the
values the spec's test vectors use (R5: 100 and 20), and the button table, which the source does not hold, is
empty. No statement rests on these three. -/
def Config.vectors : Config := Config.withOpen 100 20 []

end Sys2Proof
end

