-- ==== Sys2Proof/Syntax.lean ====
section
/-! DEFINITION. The operations of the block: one constructor for each row of spec/opcode_table.json
(30_encoding.md R43), with the operands R44 gives it. -/

namespace Sys2Proof

/-- The two framing protocols (00_scope.md R1); 0 = VendorVariant, 1 = NEC (10_state.md R11). -/
inductive Protocol where
  | vendorVariant
  | nec
deriving DecidableEq, Repr

/-- One operation. The operand types are exactly the operand fields of R44, so no operand is out of range. -/
inductive Instr where
  /-- CONNECT: bind the protocol once (R97). -/
  | connect (protocol : Protocol) (pin : Pin)
  /-- MARK: latch a mark duration (R54). -/
  | mark (markUs : Duration)
  /-- SPACE: classify one mark+space cycle (R55). -/
  | space (spaceUs : Duration)
  /-- TICK: poll for release-by-timeout (R87). -/
  | tick
  /-- RD_BUTTON: the button code of the last decoded command (R98). -/
  | rdButton
  /-- RD_DATAGRAM: the last decoded address and command (R99). -/
  | rdDatagram
  /-- RD_RXFLAG: the one-shot received flag (R100). -/
  | rdRxflag
deriving DecidableEq, Repr

end Sys2Proof
end

