-- ==== Sys2Proof/Machine/State.lean ====
section
/-! DEFINITION. The machine's state as plain data: the block's state record (10_state.md R10), and beside it the
inputs and outputs of `Step(s, cmd, now) -> (s', rsp, events)` (00_scope.md R9), which the host's one-argument
step must find and leave in State (assumption log 1). -/

namespace Sys2Proof.Machine

/-- A class of the pulse classifier (40_classifier.md R51). -/
inductive PulseClass where
  | bit0
  | bit1
  | repeatCode
  | long
deriving DecidableEq, Repr

/-- A decode result (40_classifier.md R53). -/
inductive PulseOutcome where
  | incomplete
  | repeatCode
  | datagram
deriving DecidableEq, Repr

/-- A notification on the event output (30_encoding.md R48). -/
inductive Event where
  | pressed (code : Code)
  | released (code : Code)
  | datagramReady
deriving DecidableEq, Repr

/-- A command word with the time it is presented at (R4, R24), and how the environment keeps the two duties of
70_reset_and_hazards.md R128 that the word itself cannot show (assumption log 8). -/
structure Command where
  /-- The 36-bit command word (R42). -/
  word : CommandWord
  /-- `now_ms`, sampled once for this operation (R24). -/
  now : Time
  /-- The word is presented while another operation is still in progress: R128 item 3 is broken. -/
  overlaps : Bool := false
  /-- The event sink accepts the events this operation emits: R128 item 4. -/
  sinkAccepts : Bool := true
deriving DecidableEq, Repr

/-- What the environment can do to the block: present a command (R4), or reset it between operations (R126). -/
inductive Input where
  | command (c : Command)
  | reset
deriving DecidableEq, Repr

/-- The whole state. The first fourteen fields are the spec's record (R10), named as the spec names them; the last
five are the model's own (assumption log 1). -/
structure State where
  /-- `proto_bound`: a protocol has been bound (R11). -/
  protoBound : Bool
  /-- `proto`: the bound protocol (R11). -/
  proto : Protocol
  /-- `capture_pin`: the pin of the first binding CONNECT (R12). -/
  capturePin : Pin
  /-- `session_valid`: a session exists (R14). -/
  sessionValid : Bool
  /-- `mark_latch`: the latest accepted mark duration (R15). -/
  markLatch : Duration
  /-- `bits_received`: data bits folded into the current frame; 33 is overrun (R16). -/
  bitsReceived : BitVec 6
  /-- `hi_word`: the high accumulator (R17). -/
  hiWord : Field16
  /-- `lo_word`: the low accumulator (R18). -/
  loWord : Field16
  /-- `address_field` (R19). -/
  addressField : Field16
  /-- `command_field` (R19). -/
  commandField : Field16
  /-- `has_unread` (R21). -/
  hasUnread : Bool
  /-- `active_valid`: a button is held (R20). -/
  activeValid : Bool
  /-- `active_code`: which one, while `activeValid` (R20). -/
  activeCode : Code
  /-- `repeat_deadline` (R22). -/
  repeatDeadline : Time
  /-- The parameters of R5, which no operation writes (R29). -/
  cfg : Config
  /-- `now_ms` as sampled for the latest operation (R24). -/
  nowMs : Time
  /-- The inputs presented and not yet performed, oldest first: the total order of R39. -/
  inbox : List Input
  /-- The response word of the latest operation (R25, R47). -/
  response : Response
  /-- The events on the event output since reset, oldest first (R89). -/
  eventOut : List Event
deriving DecidableEq, Repr

/-- The hardware's faults: there are none (60_exceptions.md R112: "no exceptions, traps or fatal states"). -/
inductive Fault where
deriving DecidableEq, Repr

/-- Inputs the spec gives no meaning to. None of them is hardware behaviour (60_exceptions.md R112), and each is
safe: the model stops where the hardware may go on. -/
inductive Refusal where
  /-- An arm of exec that has no meaning yet. No arm of this model raises it. -/
  | notModelled (mnemonic : String)
  /-- `ReservedOpcode(op)`: raised by the transaction for a word no operation has (R45). Safe. -/
  | reservedOpcode (op : Opcode)
  /-- `TimeWrap`: raised by SPACE, through Derive, where the deadline would reach `2 ^ TIME_WIDTH` (R85). Safe. -/
  | timeWrap
  /-- `now_ms` lies before that of the operation before: raised by the transaction (R24, R128 item 1). Safe. -/
  | timeDecreased
  /-- The configuration is outside R6: raised by every step under it. Safe. -/
  | badConfiguration
  /-- An operation overlaps another: raised by the transaction (R118, R128 item 3). Safe. -/
  | overlappingOperation
  /-- The event sink does not accept an event of the operation: raised by the transaction (R89, R128 item 4). Safe. -/
  | sinkDoesNotAccept
deriving DecidableEq, Repr

/-- The machine right after reset: 70_reset_and_hazards.md R125 for the block's record and the event output. The
model's own `cfg`, `nowMs`, `inbox` and `response` are DESIGN CHOICE (assumption log 1, 2, 3, 6). -/
def State.reset : State where
  protoBound := false
  proto := .vendorVariant
  capturePin := 0
  sessionValid := false
  markLatch := 0
  bitsReceived := 0
  hiWord := 0
  loWord := 0
  addressField := 0
  commandField := 0
  hasUnread := false
  activeValid := false
  activeCode := 0
  repeatDeadline := 0
  cfg := Config.vectors
  nowMs := 0
  inbox := []
  response := 0
  eventOut := []

end Sys2Proof.Machine
end

