-- ==== Sys2Proof/Machine/Ops.lean ====
section
/-! DEFINITION. The named operations on the state that the meanings share (00_scope.md R8). The block has no memory
(20_memory.md R31, R32) and no general registers (10_state.md R13), so there are no loads, stores or register
accessors; and it takes no exception and returns from none (60_exceptions.md R112), so there is no entry or return
operation. -/

namespace Sys2Proof.Machine

/-- `respond(w)` (R8). -/
def State.respond (s : State) (w : Response) : State := { s with response := w }

/-- `emit(KIND, code)`: append one notification to the event output (R8, R89). -/
def State.emit (s : State) (e : Event) : State := { s with eventOut := s.eventOut ++ [e] }

/-- `bits_received <- 0`: a boundary pulse (40_classifier.md R52) or a release by timeout (42_event_deriver.md R87).
No other field changes. -/
def State.clearCounter (s : State) : State := { s with bitsReceived := 0 }

/-- `session_valid <- 1`: the session exists from now on (43_session.md R96). No other field changes (10_state.md R14). -/
def State.ensureSession (s : State) : State := { s with sessionValid := true }

/-- Reset or power-up between operations (20_memory.md R30; 70_reset_and_hazards.md R125, R126): every field of the
record at its reset value and the event output empty. The configuration is fixed for the run (10_state.md R29), and
inputs presented later stay presented (assumption log 5). -/
def State.applyReset (s : State) (rest : List Input) : State :=
  { State.reset with cfg := s.cfg, inbox := rest }

/-- Sampling one command: its time becomes `now`, it leaves the inbox, and the response starts at 0, the value of an
operation that executes no `respond` (R8, R24). So no operation sees the response of another (10_state.md R25). -/
def State.accept (s : State) (now : Time) (rest : List Input) : State :=
  { s with nowMs := now, inbox := rest, response := 0 }

/-- The level output `capture_enable` (10_state.md R12). -/
def State.captureEnable (s : State) : Bool := s.protoBound

/-- The level output `tick_enable` (10_state.md R25). -/
def State.tickEnable (s : State) : Bool := s.protoBound

/-- The output `capture_pin` to the capture collaborator (10_state.md R12). -/
def State.capturePinOut (s : State) : Pin := s.capturePin

end Sys2Proof.Machine
end

