-- ==== Sys2Proof/Machine/Classifier.lean ====
section
/-! DEFINITION. The pulse classifier (40_classifier.md R51). -/

namespace Sys2Proof.Machine

/-- `Classify(d)` (R51): pure, no lower noise bound, and a sum at a threshold belongs to the upper class. -/
def classify (c : Config) (d : Nat) : PulseClass :=
  if d < c.tBit1 then .bit0
  else if d < c.tSync then .bit1
  else if d < c.tLong then .repeatCode
  else .long

end Sys2Proof.Machine
end

