-- ==== Sys2Proof/Machine/Operands.lean ====
section
/-! DEFINITION. The operands an operation takes from the state rather than from its word: the mark+space sum of
SPACE, the sampled time, the button code, the deadline, and one bit as an accumulator's new bit. The fields of the
word itself are in Sys2Proof/Decode.lean (30_encoding.md R44). -/

namespace Sys2Proof.Machine

/-- The sum `d` of 40_classifier.md R55, exact: below `2 ^ 33` and never wrapping (R57). -/
def pulseSum (mark space : Duration) : Nat := mark.toNat + space.toNat

/-- The button code of a command field: its high byte (42_event_deriver.md R84). -/
def buttonCodeOf (commandField : Field16) : Code := commandField.extractLsb' 8 8

/-- `{address_field, command_field}`: the address in bits 31:16 (20_memory.md R34). -/
def datagramWord (address command : Field16) : Response := address ++ command

/-- `((r << 1) | b)[15:0]` (41_assembler.md R59). -/
def shiftIn (r : Field16) (b : Bool) : Field16 := (r <<< 1) ||| (if b then 1 else 0)

/-- `now + REPEAT_TIMEOUT_MS`, or nothing where it reaches `2 ^ TIME_WIDTH` (42_event_deriver.md R85, D4). -/
def nextDeadline (c : Config) (now : Time) : Option Time :=
  if now.toNat + c.repeatTimeoutMs ≥ timeModulus then none
  else some (BitVec.ofNat 32 (now.toNat + c.repeatTimeoutMs))

/-- `now > repeat_deadline` on naturals: strictly later (42_event_deriver.md R87, D14). -/
def deadlinePassed (now deadline : Time) : Bool := decide (now.toNat > deadline.toNat)

end Sys2Proof.Machine
end

