-- ==== Sys2Proof/Machine/DatagramAssembler.lean ====
section
/-! DEFINITION. The datagram assembler (41_assembler.md R58 to R63). -/

namespace Sys2Proof.Machine

/-- R60: a 1 at a position of the address byte, under the vendor variant, is a sync marker. -/
def stuffs (proto : Protocol) (b : Bool) (p : Nat) : Bool :=
  proto == .vendorVariant && b && decide (p ≤ stuffLimit)

/-- Counting a bit at position `p` once its accumulator holds it: completion exactly at 32 (R61), and the counter is
not reset by it (R62). -/
def countBit (p : Nat) (s : State) : State × PulseOutcome :=
  if p = frameBits then
    ({ s with bitsReceived := BitVec.ofNat 6 p, addressField := s.hiWord, commandField := s.loWord }, .datagram)
  else ({ s with bitsReceived := BitVec.ofNat 6 p }, .incomplete)

/-- `Fold(b)` (R58): overrun at 32 or more, else the bit goes to position `bits_received + 1` (R63). -/
def foldBit (b : Bool) (s : State) : State × PulseOutcome :=
  if s.bitsReceived.toNat ≥ frameBits then
    ({ s with bitsReceived := BitVec.ofNat 6 overrunCount }, .incomplete)
  else if s.bitsReceived.toNat + 1 ≤ fieldBits then
    if stuffs s.proto b (s.bitsReceived.toNat + 1) then
      countBit (stuffLimit + 1) { s with hiWord := 1 }
    else countBit (s.bitsReceived.toNat + 1) { s with hiWord := shiftIn s.hiWord b }
  else countBit (s.bitsReceived.toNat + 1) { s with loWord := shiftIn s.loWord b }

end Sys2Proof.Machine
end

