-- ==== Sys2Proof/Machine/EventDeriver.lean ====
section
/-! DEFINITION. The event deriver's entry point for SPACE (42_event_deriver.md R84 to R86). -/

namespace Sys2Proof.Machine

/-- The press and release part of `Derive(DATAGRAM)` (R85): nothing for the code already held, else a release of the
old one, if any, and a press of the new one. -/
def pressCode (code : Code) (s : State) : State :=
  if s.activeValid && s.activeCode == code then s
  else
    let s := if s.activeValid then s.emit (.released s.activeCode) else s
    { s.emit (.pressed code) with activeValid := true, activeCode := code }

/-- `Derive(out)` (R85) at the sampled time, after the guard `out != INCOMPLETE` of 40_classifier.md R55 (R56: an
INCOMPLETE outcome is a non-event). `none` is the pseudocode's `refuse(TimeWrap)`. -/
def deriveEvents (out : PulseOutcome) (s : State) : Option State :=
  match out with
  | .incomplete => some s
  | .repeatCode =>
    match nextDeadline s.cfg s.nowMs with
    | none => none
    | some deadline => some { s with repeatDeadline := deadline }
  | .datagram =>
    match nextDeadline s.cfg s.nowMs with
    | none => none
    | some deadline =>
      some (pressCode (buttonCodeOf s.commandField)
        (State.emit { s with repeatDeadline := deadline, hasUnread := true } .datagramReady))

end Sys2Proof.Machine
end

