-- ==== Sys2Proof/Machine/Flags.lean ====
section
/-! DEFINITION. The words by which an operation reports: response words (30_encoding.md R47) and event words
(R48). The block has no flags register; its one-bit status fields stand in State (10_state.md R10). -/

namespace Sys2Proof.Machine

/-- `rsp[3:2]` of SPACE (R47). -/
def PulseClass.code : PulseClass → BitVec 2
  | .bit0 => 0b00
  | .bit1 => 0b01
  | .repeatCode => 0b10
  | .long => 0b11

/-- `rsp[1:0]` of SPACE (R47); 0b11 is never produced. -/
def PulseOutcome.code : PulseOutcome → BitVec 2
  | .incomplete => 0b00
  | .repeatCode => 0b01
  | .datagram => 0b10

/-- The response of an operation ignored before CONNECT: `rsp[7]` = 1 (R47, D17). -/
def ignoredResponse : Response := 0x80

/-- RD_BUTTON's sentinel "any": `rsp[8]` = 1 and `rsp[7:0]` = 0 (R47, D19). -/
def anyButtonResponse : Response := 0x100

/-- A one-bit result in `rsp[0]` (R47: CONNECT, TICK, RD_RXFLAG). -/
def bitResponse (b : Bool) : Response := if b then 1 else 0

/-- A button code in `rsp[7:0]` with `rsp[8]` = 0 (R47: RD_BUTTON). -/
def codeResponse (c : Code) : Response := c.setWidth 32

/-- `{c[1:0], out[1:0]}` in `rsp[3:0]` (R47: SPACE). -/
def spaceResponse (c : PulseClass) (out : PulseOutcome) : Response := (c.code ++ out.code).setWidth 32

/-- `kind`, bits 9:8 of an event word (R48). -/
def Event.kind : Event → BitVec 2
  | .pressed _ => 0b01
  | .released _ => 0b10
  | .datagramReady => 0b11

/-- `code`, bits 7:0 of an event word: 0 for DATAGRAM_READY (R48). -/
def Event.code : Event → Code
  | .pressed c => c
  | .released c => c
  | .datagramReady => 0

/-- The 10-bit event word (R48). -/
def Event.word (e : Event) : EventWord := e.kind ++ e.code

/-- The event output as the stream of words the dispatcher receives (R48, R89). -/
def State.eventWords (s : State) : List EventWord := s.eventOut.map Event.word

end Sys2Proof.Machine
end

