-- ==== Sys2Proof/Machine/Capture.lean ====
section
/-! DEFINITION. The capture path: MARK and SPACE (40_classifier.md R52 to R57). -/

namespace Sys2Proof.Machine

/-- What `Decode(d)` returns beside its class, and the state it leaves (R53): a data bit is folded, a boundary resets
the counter and nothing else (R52). -/
def decodeClass (c : PulseClass) (s : State) : State × PulseOutcome :=
  match c with
  | .bit0 => foldBit false s
  | .bit1 => foldBit true s
  | .repeatCode => (s.clearCounter, .repeatCode)
  | .long => (s.clearCounter, .incomplete)

/-- MARK (R54). -/
def execMark (markUs : Duration) (s : State) : Host.Outcome State Fault Refusal :=
  if s.protoBound then .next (State.respond { s with markLatch := markUs } 0)
  else .next (s.respond ignoredResponse)

/-- The class of the cycle a SPACE closes (R55). -/
def spaceClass (spaceUs : Duration) (s : State) : PulseClass :=
  classify s.cfg (pulseSum s.markLatch spaceUs)

/-- SPACE (R55). -/
def execSpace (spaceUs : Duration) (s : State) : Host.Outcome State Fault Refusal :=
  if s.protoBound then
    match deriveEvents (decodeClass (spaceClass spaceUs s) s).2 (decodeClass (spaceClass spaceUs s) s).1 with
    | none => .refused .timeWrap
    | some t =>
      .next (t.respond (spaceResponse (spaceClass spaceUs s) (decodeClass (spaceClass spaceUs s) s).2))
  else .next (s.respond ignoredResponse)

end Sys2Proof.Machine
end

