-- ==== Sys2Proof/Machine/Poll.lean ====
section
/-! DEFINITION. The tick path: TICK (42_event_deriver.md R87). -/

namespace Sys2Proof.Machine

/-- The condition of a release by timeout (R87). -/
def timedOut (s : State) : Bool := s.activeValid && deadlinePassed s.nowMs s.repeatDeadline

/-- Release by timeout (R87): one RELEASED, the counter to 0, and no button held; `active_code` keeps its value. -/
def releaseByTimeout (s : State) : State :=
  { (s.emit (.released s.activeCode)).clearCounter with activeValid := false }

/-- TICK (R87). -/
def execTick (s : State) : Host.Outcome State Fault Refusal :=
  if s.protoBound then
    if timedOut s then .next ((releaseByTimeout s).respond (bitResponse true))
    else .next (s.respond (bitResponse false))
  else .next (s.respond ignoredResponse)

end Sys2Proof.Machine
end

