-- ==== Sys2Proof/Machine/Session.lean ====
section
/-! DEFINITION. The session operations: CONNECT and the three reads (43_session.md R97 to R100). -/

namespace Sys2Proof.Machine

/-- CONNECT (R97): the first binding wins. -/
def execConnect (protocol : Protocol) (pin : Pin) (s : State) : Host.Outcome State Fault Refusal :=
  if s.protoBound then .next (s.ensureSession.respond (bitResponse false))
  else
    .next (State.respond { s.ensureSession with proto := protocol, capturePin := pin, protoBound := true }
      (bitResponse true))

/-- RD_BUTTON (R98): the last frame's code, or "any" while no session exists. It writes no state. -/
def execRdButton (s : State) : Host.Outcome State Fault Refusal :=
  if s.sessionValid then .next (s.respond (codeResponse (buttonCodeOf s.commandField)))
  else .next (s.respond anyButtonResponse)

/-- RD_DATAGRAM (R99): creates the session. -/
def execRdDatagram (s : State) : Host.Outcome State Fault Refusal :=
  .next (s.ensureSession.respond (datagramWord s.addressField s.commandField))

/-- RD_RXFLAG (R100): returns the flag and clears it. -/
def execRdRxflag (s : State) : Host.Outcome State Fault Refusal :=
  .next (State.respond { s.ensureSession with hasUnread := false } (bitResponse s.hasUnread))

end Sys2Proof.Machine
end

