-- ==== Sys2Proof/Machine/Dispatch.lean ====
section
/-! DEFINITION. Each operation's meaning, one arm per constructor of Instr. -/

namespace Sys2Proof.Machine

def exec (i : Instr) (s : State) : Host.Outcome State Fault Refusal :=
  match i with
  | .connect protocol pin => Sys2Proof.Machine.execConnect protocol pin s
  | .mark markUs => Sys2Proof.Machine.execMark markUs s
  | .space spaceUs => Sys2Proof.Machine.execSpace spaceUs s
  | .tick => Sys2Proof.Machine.execTick s
  | .rdButton => Sys2Proof.Machine.execRdButton s
  | .rdDatagram => Sys2Proof.Machine.execRdDatagram s
  | .rdRxflag => Sys2Proof.Machine.execRdRxflag s

end Sys2Proof.Machine
end

