-- ==== Sys2Proof/Decode.lean ====
section
/-! DEFINITION. Command words (30_encoding.md R42 to R46): the decoder, total and rejecting by name, the encoder,
and the opcode table as rows of mask and match. -/

namespace Sys2Proof

/-- `op`, bits 35:32 (R42). -/
def opField (w : CommandWord) : Opcode := w.extractLsb' 32 4

/-- `operand`, bits 31:0 (R42). -/
def operandField (w : CommandWord) : Operand := w.extractLsb' 0 32

/-- `protocol = operand[0]` (R44). -/
def protocolField (x : Operand) : Protocol :=
  if x.getLsbD 0 then .nec else .vendorVariant

/-- `pin = operand[15:8]` (R44). -/
def pinField (x : Operand) : Pin := x.extractLsb' 8 8

/-- Why a word is no operation of the block (R45). -/
inductive DecodeError where
  /-- `op` is 0x0 or in 0x8..0xF. -/
  | reservedOpcode (op : Opcode)
deriving DecidableEq, Repr

/-- The operation a command word names. Only `op` selects it (R42, R46); should-be-zero operand bits are ignored
(R45). -/
def decode (w : CommandWord) : Except DecodeError Instr :=
  match (opField w).toNat with
  | 0x1 => .ok (.connect (protocolField (operandField w)) (pinField (operandField w)))
  | 0x2 => .ok (.mark (operandField w))
  | 0x3 => .ok (.space (operandField w))
  | 0x4 => .ok .tick
  | 0x5 => .ok .rdButton
  | 0x6 => .ok .rdDatagram
  | 0x7 => .ok .rdRxflag
  | _ => .error (.reservedOpcode (opField w))

/-- The bit that stands for a protocol (R11, R44). -/
def Protocol.toBit : Protocol → BitVec 1
  | .vendorVariant => 0
  | .nec => 1

/-- The `op` value of an operation (R43). -/
def Instr.opcode : Instr → Opcode
  | .connect _ _ => 0x1
  | .mark _ => 0x2
  | .space _ => 0x3
  | .tick => 0x4
  | .rdButton => 0x5
  | .rdDatagram => 0x6
  | .rdRxflag => 0x7

/-- The operand of an operation with every should-be-zero bit 0 (R44). -/
def Instr.operand : Instr → Operand
  | .connect protocol pin => (0 : BitVec 16) ++ pin ++ (0 : BitVec 7) ++ protocol.toBit
  | .mark us => us
  | .space us => us
  | .tick => 0
  | .rdButton => 0
  | .rdDatagram => 0
  | .rdRxflag => 0

/-- `{op, operand}` (R42, R49). -/
def packCommand (op : Opcode) (x : Operand) : CommandWord := op ++ x

/-- The command word of an operation, should-be-zero bits 0. -/
def encode (i : Instr) : CommandWord := packCommand i.opcode i.operand

/-- One row of spec/opcode_table.json. -/
structure OpcodeRow where
  mnemonic : String
  matchBits : CommandWord
  mask : CommandWord
deriving DecidableEq, Repr

/-- spec/opcode_table.json, row by row. -/
def opcodeTable : List OpcodeRow :=
  [⟨"CONNECT", 0x100000000, 0xF00000000⟩, ⟨"MARK", 0x200000000, 0xF00000000⟩,
   ⟨"SPACE", 0x300000000, 0xF00000000⟩, ⟨"TICK", 0x400000000, 0xF00000000⟩,
   ⟨"RD_BUTTON", 0x500000000, 0xF00000000⟩, ⟨"RD_DATAGRAM", 0x600000000, 0xF00000000⟩,
   ⟨"RD_RXFLAG", 0x700000000, 0xF00000000⟩]

/-- The table's name of an operation (R43). -/
def Instr.mnemonic : Instr → String
  | .connect _ _ => "CONNECT"
  | .mark _ => "MARK"
  | .space _ => "SPACE"
  | .tick => "TICK"
  | .rdButton => "RD_BUTTON"
  | .rdDatagram => "RD_DATAGRAM"
  | .rdRxflag => "RD_RXFLAG"

/-- A word belongs to a row when its masked bits are the row's. -/
def OpcodeRow.matchesWord (r : OpcodeRow) (w : CommandWord) : Bool := w &&& r.mask == r.matchBits

/-- A should-be-zero mask: the operand bits that the operation of a word does not use (R44). -/
def Instr.unusedOperandBits : Instr → Operand
  | .connect _ _ => 0xFFFF00FE
  | .mark _ => 0
  | .space _ => 0
  | .tick => 0xFFFFFFFF
  | .rdButton => 0xFFFFFFFF
  | .rdDatagram => 0xFFFFFFFF
  | .rdRxflag => 0xFFFFFFFF

/-- The command word among `nbits` bits numbered as spec/opcode_table.json numbers them: none when a bit above
the 36 of a command word is set, for no such word exists (20_memory.md R35; assumption log 10). -/
def commandWordOf (nbits w : Nat) : Option CommandWord :=
  if w % 2 ^ nbits < 2 ^ 36 then some (BitVec.ofNat 36 (w % 2 ^ nbits)) else none

/-- The operation the decoder reads from an opcode-table word. -/
def decodeTableWord (nbits w : Nat) : Option Instr :=
  match commandWordOf nbits w with
  | none => none
  | some word =>
    match decode word with
    | .ok i => some i
    | .error _ => none

end Sys2Proof
end

