-- ==== Sys2Proof/WellFormed.lean ====
section
/-! DEFINITION. Checks on what the types alone do not settle: a configuration (00_scope.md R6), a schedule of
inputs that keeps the environment's duties (70_reset_and_hazards.md R128), and a command word with its
should-be-zero bits clear (30_encoding.md R44). An Instr needs no check: its operand types are the operand fields
of R44. -/

namespace Sys2Proof

/-- The bounds of R6: `0 < T_BIT1 <= T_SYNC <= T_LONG` and `REPEAT_TIMEOUT_MS < 2 ^ TIME_WIDTH`. -/
def Config.wf (c : Config) : Bool :=
  decide (0 < c.tBit1) && decide (c.tBit1 ≤ c.tSync) && decide (c.tSync ≤ c.tLong) &&
    decide (c.repeatTimeoutMs < timeModulus)

/-- A word whose should-be-zero bits are 0 and whose `op` is not reserved. Other words may still decode (R45). -/
def canonicalWord (w : CommandWord) : Bool :=
  match decode w with
  | .ok i => operandField w &&& i.unusedOperandBits == 0
  | .error _ => false

/-- A command that keeps the duties of R128 items 1, 3 and 4 after an operation at time `before`. -/
def Machine.Command.dutiful (before : Time) (c : Machine.Command) : Bool :=
  decide (before.toNat ≤ c.now.toNat) && !c.overlaps && c.sinkAccepts

/-- A schedule of inputs that keeps those duties throughout; a reset starts time afresh (assumption log 5). -/
def Machine.scheduleWf : Time → List Machine.Input → Bool
  | _, [] => true
  | _, .reset :: rest => Machine.scheduleWf 0 rest
  | before, .command c :: rest => c.dutiful before && Machine.scheduleWf c.now rest

end Sys2Proof
end

