-- ==== Sys2Proof/Machine/Transaction.lean ====
section
/-! DEFINITION. One transaction: the block's `Step(s, cmd, now)` (00_scope.md R9) with the refusals of inputs
outside the spec's domain (60_exceptions.md R112), and how the environment presents a word. -/

namespace Sys2Proof.Machine

/-- The events an operation appended went to a sink that does not accept them (70_reset_and_hazards.md R128 item 4).
An operation that emits nothing needs no sink. -/
def sinkBlocks (c : Command) (before after : State) : Bool :=
  !c.sinkAccepts && decide (before.eventOut.length < after.eventOut.length)

/-- An operation that has run, held against the sink. -/
def checkSink (c : Command) (before : State) (out : Host.Outcome State Fault Refusal) :
    Host.Outcome State Fault Refusal :=
  match out with
  | .next after => if sinkBlocks c before after then .refused .sinkDoesNotAccept else .next after
  | .fault f => .fault f
  | .refused r => .refused r

/-- One command, with the inputs left after it (R9). A broken duty or a reserved word refuses it (R45, R128);
else the decoded operation runs at the sampled time. -/
def runCommand (c : Command) (rest : List Input) (s : State) : Host.Outcome State Fault Refusal :=
  if c.overlaps then .refused .overlappingOperation
  else if c.now.toNat < s.nowMs.toNat then .refused .timeDecreased
  else
    match decode c.word with
    | .error (.reservedOpcode op) => .refused (.reservedOpcode op)
    | .ok i => checkSink c s (exec i (s.accept c.now rest))

/-- One input in the order the environment chose (20_memory.md R39). With nothing presented the block holds its
state (60_exceptions.md R121; assumption log 4). -/
def runNext (s : State) : Host.Outcome State Fault Refusal :=
  match s.inbox with
  | [] => .next s
  | .reset :: rest => .next (s.applyReset rest)
  | .command c :: rest => runCommand c rest s

/-- A step under a configuration: one outside R6 is refused whole (R6, I2). -/
def stepUnderConfig (s : State) : Host.Outcome State Fault Refusal :=
  if s.cfg.wf then runNext s else .refused .badConfiguration

/-- The environment presents a word as the next command, at the time of the latest operation, keeping its duties. -/
def State.presentWord (s : State) (w : CommandWord) : State :=
  { s with inbox := .command { word := w, now := s.nowMs } :: s.inbox }

/-- Presenting the command word among `nbits` table bits; a number that is no command word cannot be presented
(assumption log 10). -/
def State.presentTableWord (s : State) (nbits w : Nat) : State :=
  match commandWordOf nbits w with
  | some word => s.presentWord word
  | none => s

end Sys2Proof.Machine
end

