-- ==== Sys2Proof/Machine/Step.lean ====
section
/-! DEFINITION. The step of the machine and how a word is placed before it. -/

namespace Sys2Proof.Machine

/-- One step: the next input, under the configuration. -/
def step (s : State) : Host.Outcome State Fault Refusal := Sys2Proof.Machine.stepUnderConfig s

/-- The state with a word where step takes its next command: the head of the inbox (assumption log 11). -/
def State.withFetchWord (s : State) (nbits w : Nat) : State := s.presentTableWord nbits w

end Sys2Proof.Machine
end

