-- ==== Sys2Proof/Machine/AssemblyLanguage.lean ====
section
/-! DEFINITION. The spec's assembler: pseudo-instructions (30_encoding.md R50), lines and their text (R49). A program
is a timed sequence of commands issued by the environment (95_test_vectors.md, section L3). -/

namespace Sys2Proof.Machine

/-- An operation or a pseudo-instruction (R49, R50). -/
inductive AsmOp where
  | instr (i : Instr)
  | pulse (m s : Duration)
  | bit0
  | bit1
  | leader
  | rpt
  | gap
  | bits (v n : Nat)
  | frame (a c : Nat)
deriving DecidableEq, Repr

/-- `PULSE m, s` (R50). -/
def pulseOps (m s : Duration) : List Instr := [.mark m, .space s]

/-- `BIT0` or `BIT1` (R50). -/
def bitOps (b : Bool) : List Instr := if b then pulseOps 600 1600 else pulseOps 600 600

/-- `BITS v, n`: the `n` low bits of `v`, most significant first (R50). -/
def bitsOps (v : Nat) : Nat → List Instr
  | 0 => []
  | n + 1 => bitOps (v.testBit n) ++ bitsOps v n

/-- The expansion of R50. -/
def AsmOp.expand : AsmOp → List Instr
  | .instr i => [i]
  | .pulse m s => pulseOps m s
  | .bit0 => bitOps false
  | .bit1 => bitOps true
  | .leader => pulseOps 9000 4500
  | .rpt => pulseOps 9000 2250
  | .gap => pulseOps 600 40000
  | .bits v n => bitsOps v n
  | .frame a c => pulseOps 9000 4500 ++ bitsOps a 16 ++ bitsOps c 16

/-- A line: an optional time stamp, then the operation; a blank line has none (R49). -/
structure AsmLine where
  stamp : Option Time
  op : Option AsmOp
deriving DecidableEq, Repr

/-- Lines to commands: a stamp sets `now_ms` for its line and those after it (R49). -/
def assembleFrom (now : Time) : List AsmLine → List Command
  | [] => []
  | l :: ls =>
    (match l.op with
      | none => []
      | some op => op.expand.map (fun i => { word := encode i, now := l.stamp.getD now })) ++
      assembleFrom (l.stamp.getD now) ls

/-- A program: `now_ms` is 0 before the first stamp (R49). -/
def assemble (ls : List AsmLine) : List Command := assembleFrom 0 ls

/-- A character of a line that separates tokens. -/
def isBlank (c : Char) : Bool := c == ' ' || c == '\t'

/-- Tokens of a line: words, and each comma by itself. -/
def tokens : List Char → List (List Char)
  | [] => []
  | c :: cs =>
    if isBlank c then [] :: tokens cs
    else if c == ',' then [] :: [','] :: [] :: tokens cs
    else
      match tokens cs with
      | [] => [[c]]
      | t :: ts => if t == [','] then [c] :: t :: ts else (c :: t) :: ts

/-- A digit's value. -/
def digitValue (c : Char) : Option Nat :=
  if '0' ≤ c ∧ c ≤ '9' then some (c.toNat - 48)
  else if 'a' ≤ c ∧ c ≤ 'f' then some (c.toNat - 87)
  else if 'A' ≤ c ∧ c ≤ 'F' then some (c.toNat - 55)
  else none

/-- Digits of a base, most significant first, after the value read so far. -/
def parseDigits (base : Nat) (acc : Nat) : List Char → Option Nat
  | [] => some acc
  | c :: cs =>
    match digitValue c with
    | none => none
    | some d => if d < base then parseDigits base (acc * base + d) cs else none

/-- At least one digit. -/
def parseBase (base : Nat) (cs : List Char) : Option Nat :=
  if cs.isEmpty then none else parseDigits base 0 cs

/-- A number: decimal, hexadecimal after `0x` (R49), or binary after `0b`, the literal of R7 that the spec's
program P2 uses (assumption log 16). -/
def parseNumber (cs : List Char) : Option Nat :=
  match cs with
  | '0' :: 'x' :: ds => parseBase 16 ds
  | '0' :: 'b' :: ds => parseBase 2 ds
  | ds => parseBase 10 ds

/-- A number that fits a field of `n` bits (assumption log 16). -/
def parseField (n : Nat) (cs : List Char) : Option (BitVec n) :=
  match parseNumber cs with
  | none => none
  | some v => if v < 2 ^ n then some (BitVec.ofNat n v) else none

/-- `VENDOR` or `NEC` (R49). -/
def parseProtocol (cs : List Char) : Option Protocol :=
  if cs = "VENDOR".toList then some .vendorVariant
  else if cs = "NEC".toList then some .nec
  else none

/-- A mnemonic without operands (R49, R50). -/
def parsePlain (m : List Char) : Option AsmOp :=
  if m = "TICK".toList then some (.instr .tick)
  else if m = "RD_BUTTON".toList then some (.instr .rdButton)
  else if m = "RD_DATAGRAM".toList then some (.instr .rdDatagram)
  else if m = "RD_RXFLAG".toList then some (.instr .rdRxflag)
  else if m = "BIT0".toList then some .bit0
  else if m = "BIT1".toList then some .bit1
  else if m = "LEADER".toList then some .leader
  else if m = "RPT".toList then some .rpt
  else if m = "GAP".toList then some .gap
  else none

/-- A mnemonic with one operand; CONNECT's pin defaults to 0 (R49). -/
def parseUnary (m x : List Char) : Option AsmOp :=
  if m = "CONNECT".toList then (parseProtocol x).map (fun p => .instr (.connect p 0))
  else if m = "MARK".toList then (parseField 32 x).map (fun d => .instr (.mark d))
  else if m = "SPACE".toList then (parseField 32 x).map (fun d => .instr (.space d))
  else none

/-- A mnemonic with two operands (R49, R50). -/
def parseBinary (m x y : List Char) : Option AsmOp :=
  if m = "CONNECT".toList then
    match parseProtocol x, parseField 8 y with
    | some p, some pin => some (.instr (.connect p pin))
    | _, _ => none
  else if m = "PULSE".toList then
    match parseField 32 x, parseField 32 y with
    | some d, some e => some (.pulse d e)
    | _, _ => none
  else if m = "BITS".toList then
    match parseNumber x, parseNumber y with
    | some v, some n => some (.bits v n)
    | _, _ => none
  else if m = "FRAME".toList then
    match parseField 16 x, parseField 16 y with
    | some a, some c => some (.frame a.toNat c.toNat)
    | _, _ => none
  else none

/-- The mnemonic and operands of a line, its time stamp taken off. -/
def parseOp (ts : List (List Char)) : Option (Option AsmOp) :=
  match ts with
  | [] => some none
  | [m] => (parsePlain m).map some
  | [m, x] => (parseUnary m x).map some
  | [m, x, [','], y] => (parseBinary m x y).map some
  | _ => none

/-- One line of text: `[@<now>] <MNEMONIC> [<operand> [, <operand>]] [; comment]` (R49). None for a line of another
form. -/
def parseLine (cs : List Char) : Option AsmLine :=
  match (tokens (cs.takeWhile (fun c => c != ';'))).filter (fun t => !t.isEmpty) with
  | ('@' :: n) :: ts =>
    match parseField 32 n, parseOp ts with
    | some now, some op => some ⟨some now, op⟩
    | _, _ => none
  | ts => (parseOp ts).map (fun op => ⟨none, op⟩)

end Sys2Proof.Machine
end

