-- ==== Sys2Proof/Machine/HostSide.lean ====
section
/-! DEFINITION. What stands on the host's side of the block (00_scope.md R3): the dispatcher's matching
(42_event_deriver.md R91), hex rendering (43_session.md R101) and the button-symbol lookup (R102). None of it is block
state or read by a block operation (10_state.md R28; assumption log 15). -/

namespace Sys2Proof.Machine

/-- "a tagged variant {Specific(code), Any}" (R91). -/
inductive Matcher where
  | specific (code : Code)
  | any
deriving DecidableEq, Repr

/-- The `action` of `register` (R91). -/
inductive Action where
  | pressed
  | released
deriving DecidableEq, Repr

/-- A registered handler; the callback is its name. -/
structure Handler where
  matcher : Matcher
  callback : Nat
deriving DecidableEq, Repr

/-- The dispatcher's two lists, in registration order. -/
structure Registry where
  pressed : List Handler
  released : List Handler
deriving DecidableEq, Repr

/-- `register(button, action, callback)`: appended, never removed (R91). -/
def Registry.register (r : Registry) (m : Matcher) (a : Action) (callback : Nat) : Registry :=
  match a with
  | .pressed => { r with pressed := r.pressed ++ [⟨m, callback⟩] }
  | .released => { r with released := r.released ++ [⟨m, callback⟩] }

/-- The matcher accepts a button code (R91). -/
def Matcher.accepts (m : Matcher) (c : Code) : Bool :=
  match m with
  | .specific d => d == c
  | .any => true

/-- The callbacks an event runs, in registration order (R91). No API subscribes to DATAGRAM_READY. -/
def Registry.dispatch (r : Registry) (e : Event) : List Nat :=
  match e with
  | .pressed c => (r.pressed.filter (fun h => h.matcher.accepts c)).map Handler.callback
  | .released c => (r.released.filter (fun h => h.matcher.accepts c)).map Handler.callback
  | .datagramReady => []

/-- A nibble as an uppercase hexadecimal digit (R101). -/
def hexDigit (n : Nat) : Char := Char.ofNat (if n < 10 then 48 + n else 55 + n)

/-- A field as four digits, most significant nibble first (R101). -/
def hexField (w : Field16) : List Char :=
  [hexDigit (w.extractLsb' 12 4).toNat, hexDigit (w.extractLsb' 8 4).toNat, hexDigit (w.extractLsb' 4 4).toNat,
   hexDigit (w.extractLsb' 0 4).toNat]

/-- `"0x"` and the eight digits of an RD_DATAGRAM response (R101). -/
def hexOfDatagram (w : Response) : String :=
  String.ofList (['0', 'x'] ++ hexField (w.extractLsb' 16 16) ++ hexField (w.extractLsb' 0 16))

/-- `lastDatagramHex()`: the string, and the session it creates as RD_DATAGRAM does (R101). -/
def lastDatagramHex (s : State) : String × State :=
  (hexOfDatagram (datagramWord s.addressField s.commandField), s.ensureSession)

/-- `buttonCode(button)`: the table's code of a symbol; none for a symbol the table lacks (R102). -/
def buttonCode (c : Config) (symbol : String) : Option Nat := c.buttonTable.lookup symbol

end Sys2Proof.Machine
end

