-- ==== Sys2Proof/Safety.lean ====
section
/-! DEFINITION. The terms claims use: the invariants of 10_state.md R23 and those the rules imply, the event stream
read back as press and release, and timed sequences of operations as the environment may issue them. -/

namespace Sys2Proof.Machine

/-- R23 item 1. -/
def State.counterBounded (s : State) : Prop := s.bitsReceived.toNat ≤ overrunCount

/-- R23 item 3: nothing has been received before the first CONNECT. -/
def State.quietBeforeConnect (s : State) : Prop :=
  s.protoBound = false →
    s.bitsReceived = 0 ∧ s.activeValid = false ∧ s.hasUnread = false ∧ s.addressField = 0 ∧ s.commandField = 0

/-- R23 item 4. -/
def State.boundHasSession (s : State) : Prop := s.protoBound = true → s.sessionValid = true

/-- What R23 item 2 says of one state: while a button is held, the deadline is some earlier or present time of an
operation plus the timeout. -/
def State.deadlineScheduled (s : State) : Prop :=
  s.activeValid = true →
    s.cfg.repeatTimeoutMs ≤ s.repeatDeadline.toNat ∧
      s.repeatDeadline.toNat ≤ s.nowMs.toNat + s.cfg.repeatTimeoutMs

/-- R23 as a property of one state. -/
structure State.RecordInv (s : State) : Prop where
  counter : s.counterBounded
  deadline : s.deadlineScheduled
  quiet : s.quietBeforeConnect
  session : s.boundHasSession

/-- What follows from R61, R62 and R85: a finished frame's accumulators are the decoded fields until counting starts
again, and the held button is the last decoded one. -/
structure State.FrameInv (s : State) : Prop where
  finished : frameBits ≤ s.bitsReceived.toNat → s.hiWord = s.addressField ∧ s.loWord = s.commandField
  held : s.activeValid = true → s.activeCode = buttonCodeOf s.commandField

/-- The document's `activeCommandCode`: none stands for -1 (R20). -/
def State.heldCode (s : State) : Option Code :=
  match s.activeValid with
  | true => some s.activeCode
  | false => none

/-- One event read by an observer who knows which button is held: a press needs none held, a release needs that very
button held, and DATAGRAM_READY changes nothing. `none` is a stream no press/release alternation explains. -/
def replayEvent (held : Option (Option Code)) (e : Event) : Option (Option Code) :=
  match held, e with
  | none, _ => none
  | some h, .datagramReady => some h
  | some none, .pressed c => some (some c)
  | some (some _), .pressed _ => none
  | some (some h), .released c => if h = c then some none else none
  | some none, .released _ => none

/-- The button an observer of the whole event output believes held. -/
def replayEvents (es : List Event) : Option (Option Code) := es.foldl replayEvent (some none)

/-- The event output explains exactly the active command. -/
def State.EventsMatchHeld (s : State) : Prop := replayEvents s.eventOut = some s.heldCode

/-- The press and release notifications of a list of events. -/
def pressReleaseEvents (es : List Event) : List Event := es.filter (fun e => e != .datagramReady)

/-- Data bits folded one after another, and the outcome of each (41_assembler.md R64, R65). -/
def foldBits : List Bool → State → State × List PulseOutcome
  | [], s => (s, [])
  | b :: bs, s => ((foldBits bs (foldBit b s).1).1, (foldBit b s).2 :: (foldBits bs (foldBit b s).1).2)

/-- One bit after a word, read arithmetically: `((r << 1) | b)[15:0]` as a number (41_assembler.md R59). -/
def appendBit (r : Field16) (b : Bool) : Field16 := BitVec.ofNat 16 (2 * r.toNat + b.toNat)

/-- A word written most significant bit first (20_memory.md R33). -/
def wordOfBits (bs : List Bool) : Field16 := bs.foldl appendBit 0

/-- An operation issued at a time. -/
abbrev TimedOp := Instr × Time

/-- The operation at its time, with the inputs that wait left as they are. -/
def execTimed (x : TimedOp) (s : State) : Host.Outcome State Fault Refusal :=
  exec x.1 (s.accept x.2 s.inbox)

/-- Operations one after another. -/
def runTimed : List TimedOp → State → Host.Outcome State Fault Refusal
  | [], s => .next s
  | x :: xs, s =>
    match execTimed x s with
    | .next t => runTimed xs t
    | .fault f => .fault f
    | .refused r => .refused r

/-- The outcome an operation hands to the event deriver: INCOMPLETE for every operation but a SPACE that is not
ignored (R53, R55). -/
def opOutcome (i : Instr) (s : State) : PulseOutcome :=
  match i with
  | .space us => if s.protoBound then (decodeClass (spaceClass us s) s).2 else .incomplete
  | .connect _ _ => .incomplete
  | .mark _ => .incomplete
  | .tick => .incomplete
  | .rdButton => .incomplete
  | .rdDatagram => .incomplete
  | .rdRxflag => .incomplete

/-- 70_reset_and_hazards.md R128 item 2 for the command that is next: if it is a SPACE that yields REPEAT or DATAGRAM,
its deadline stays below `2 ^ TIME_WIDTH`. -/
def State.deadlineFits (s : State) : Bool :=
  match s.inbox with
  | [] => true
  | .reset :: _ => true
  | .command c :: _ =>
    match decode c.word with
    | .ok i => opOutcome i s == .incomplete || decide (c.now.toNat + s.cfg.repeatTimeoutMs < timeModulus)
    | .error _ => true

/-- A run of R93 item 1: it goes on, no operation has a REPEAT or DATAGRAM outcome, and no TICK comes after the
deadline. -/
def quietRun : List TimedOp → State → Bool
  | [], _ => true
  | x :: xs, s =>
    match execTimed x s with
    | .next t =>
      opOutcome x.1 s == .incomplete && !(x.1 == .tick && deadlinePassed x.2 s.repeatDeadline) && quietRun xs t
    | .fault _ => false
    | .refused _ => false

/-- A run of R93 item 2: it goes on, every DATAGRAM outcome has the code `c`, and no TICK finds the button timed out. -/
def heldRun (c : Code) : List TimedOp → State → Bool
  | [], _ => true
  | x :: xs, s =>
    match execTimed x s with
    | .next t =>
      (opOutcome x.1 s != .datagram || buttonCodeOf t.commandField == c) &&
        !(x.1 == .tick && timedOut (s.accept x.2 s.inbox)) && heldRun c xs t
    | .fault _ => false
    | .refused _ => false

/-- How many DATAGRAM outcomes a run has. -/
def datagramCount : List TimedOp → State → Nat
  | [], _ => 0
  | x :: xs, s =>
    match execTimed x s with
    | .next t => (if opOutcome x.1 s = .datagram then 1 else 0) + datagramCount xs t
    | .fault _ => 0
    | .refused _ => 0

end Sys2Proof.Machine
end

