-- ==== Sys2Proof/Certificates/Slice0/Obligations.lean ====
section
/-! DEFINITION. Statements for the provers, from the numbered rules of spec/. No statement rests on a value of an OPEN
parameter or on the reset value of a field that is the model's own. -/

open Sys2Proof Sys2Proof.Machine

/-! What each operation does. Each answer is a whole state, so the frame is part of it. -/

/-- 43_session.md R97: the words of CONNECT; the first CONNECT binds, which opens both enables; every later one only
makes sure the session exists. -/
def Obligations.ConnectFirstBindingWins : Prop :=
  (∀ w : CommandWord, w.toNat / 2 ^ 32 = 1 →
    decode w = .ok (.connect (if w.toNat % 2 = 1 then .nec else .vendorVariant) (BitVec.ofNat 8 (w.toNat / 256)))) ∧
  (∀ s : State, s.captureEnable = s.protoBound ∧ s.tickEnable = s.protoBound) ∧
  ∀ (p q : Protocol) (pin other : Pin) (s : State),
    (s.protoBound = false →
      exec (.connect p pin) s = .next { s with
        sessionValid := true, proto := p, capturePin := pin, protoBound := true, response := 1 } ∧
      exec (.connect q other) { s with
        sessionValid := true, proto := p, capturePin := pin, protoBound := true, response := 1 } =
        .next { s with
          sessionValid := true, proto := p, capturePin := pin, protoBound := true, response := 0 }) ∧
    (s.protoBound = true → exec (.connect p pin) s = .next { s with sessionValid := true, response := 0 })

/-- 40_classifier.md R54: the words of MARK; MARK writes the latch and nothing else; the second of two wins; unbound it is ignored. -/
def Obligations.MarkLatchesWhenBound : Prop :=
  (∀ w : CommandWord, w.toNat / 2 ^ 32 = 2 → decode w = .ok (.mark (BitVec.ofNat 32 w.toNat))) ∧
  ∀ (a b : Duration) (s : State),
    (s.protoBound = true →
      exec (.mark a) s = .next { s with markLatch := a, response := 0 } ∧
      exec (.mark b) { s with markLatch := a, response := 0 } = .next { s with markLatch := b, response := 0 }) ∧
    (s.protoBound = false → exec (.mark a) s = .next { s with response := 0x80 })

/-- 42_event_deriver.md R87: the words of TICK; its release by timeout, which leaves nothing for a second TICK to
release, and its two ways of doing nothing. -/
def Obligations.TickReleasesByTimeout : Prop :=
  (∀ w : CommandWord, w.toNat / 2 ^ 32 = 4 → decode w = .ok .tick) ∧
  ∀ s : State,
    (s.protoBound = false → exec .tick s = .next { s with response := 0x80 }) ∧
    (s.protoBound = true → s.activeValid = true → s.repeatDeadline.toNat < s.nowMs.toNat →
      exec .tick s = .next { s with
        eventOut := s.eventOut ++ [.released s.activeCode], bitsReceived := 0, activeValid := false,
        response := 1 }) ∧
    (s.protoBound = true → (s.activeValid = false ∨ s.nowMs.toNat ≤ s.repeatDeadline.toNat) →
      exec .tick s = .next { s with response := 0 })

/-- 43_session.md R98: the words of RD_BUTTON; the high byte of the last command field, or "any" while no session exists. -/
def Obligations.RdButtonReturnsLastCode : Prop :=
  (∀ w : CommandWord, w.toNat / 2 ^ 32 = 5 → decode w = .ok .rdButton) ∧
  ∀ s : State,
    (s.sessionValid = false → exec .rdButton s = .next { s with response := 0x100 }) ∧
    (s.sessionValid = true →
      exec .rdButton s = .next { s with response := BitVec.ofNat 32 (s.commandField.toNat / 256) })

/-- 43_session.md R99 with 20_memory.md R34: the words of RD_DATAGRAM; address in bits 31:16, command in bits 15:0; a
repeat answers the same. -/
def Obligations.RdDatagramPacksAddressHigh : Prop :=
  (∀ w : CommandWord, w.toNat / 2 ^ 32 = 6 → decode w = .ok .rdDatagram) ∧
  ∀ s : State, ∃ t,
    exec .rdDatagram s = .next t ∧
    t = { s with
      sessionValid := true,
      response := BitVec.ofNat 32 (s.addressField.toNat * 65536 + s.commandField.toNat) } ∧
    exec .rdDatagram t = .next t

/-- 43_session.md R100: the words of RD_RXFLAG; the flag is returned and cleared, so the next read answers 0. -/
def Obligations.RdRxflagReadsOnce : Prop :=
  (∀ w : CommandWord, w.toNat / 2 ^ 32 = 7 → decode w = .ok .rdRxflag) ∧
  ∀ s : State, ∃ t,
    exec .rdRxflag s = .next t ∧
    t = { s with sessionValid := true, hasUnread := false, response := if s.hasUnread = true then 1 else 0 } ∧
    exec .rdRxflag t = .next { t with response := 0 }

/-- 40_classifier.md R55: a SPACE before CONNECT has no effect. -/
def Obligations.SpaceIgnoredBeforeConnect : Prop :=
  ∀ (us : Duration) (s : State), s.protoBound = false → exec (.space us) s = .next { s with response := 0x80 }

/-- 40_classifier.md R52, R55 and 42_event_deriver.md R86: a boundary cycle resets the counter and abandons the frame;
a LONG one does nothing else, a REPEAT one also refreshes the deadline. -/
def Obligations.SpaceBoundaryResetsCounter : Prop :=
  ∀ (us : Duration) (s : State), s.protoBound = true → s.cfg.wf = true →
    (s.cfg.tLong ≤ s.markLatch.toNat + us.toNat →
      exec (.space us) s = .next { s with bitsReceived := 0, response := 0xC }) ∧
    (s.cfg.tSync ≤ s.markLatch.toNat + us.toNat → s.markLatch.toNat + us.toNat < s.cfg.tLong →
      s.nowMs.toNat + s.cfg.repeatTimeoutMs < 2 ^ 32 →
      exec (.space us) s = .next { s with
        bitsReceived := 0, repeatDeadline := BitVec.ofNat 32 (s.nowMs.toNat + s.cfg.repeatTimeoutMs),
        response := 0x9 })

/-- 41_assembler.md R58, R59: a data bit that neither stuffs, completes nor overruns is shifted into its accumulator
and counted. -/
def Obligations.SpaceDataBitShiftsIn : Prop :=
  ∀ (us : Duration) (s : State) (b : Bool), s.protoBound = true → s.cfg.wf = true →
    s.markLatch.toNat + us.toNat < s.cfg.tSync →
    b = decide (s.cfg.tBit1 ≤ s.markLatch.toNat + us.toNat) →
    s.bitsReceived.toNat < 31 →
    ¬ (s.proto = .vendorVariant ∧ b = true ∧ s.bitsReceived.toNat < 8) →
    exec (.space us) s = .next { s with
      hiWord := if s.bitsReceived.toNat < 16 then appendBit s.hiWord b else s.hiWord,
      loWord := if s.bitsReceived.toNat < 16 then s.loWord else appendBit s.loWord b,
      bitsReceived := s.bitsReceived + 1,
      response := if b then 0x4 else 0x0 }

/-- 41_assembler.md R60: a 1 at positions 1..8 under the vendor variant restarts the frame at position 9. -/
def Obligations.SpaceStuffingRestartsFrame : Prop :=
  ∀ (us : Duration) (s : State), s.protoBound = true → s.proto = .vendorVariant →
    s.cfg.tBit1 ≤ s.markLatch.toNat + us.toNat → s.markLatch.toNat + us.toNat < s.cfg.tSync →
    s.bitsReceived.toNat < 8 →
    exec (.space us) s = .next { s with hiWord := 1, bitsReceived := 9, response := 0x4 }

/-- 41_assembler.md R58: a data bit after bit 32 changes nothing but the counter, which goes to or stays at 33. -/
def Obligations.SpaceOverrunBitIgnored : Prop :=
  ∀ (us : Duration) (s : State), s.protoBound = true → s.cfg.wf = true →
    s.markLatch.toNat + us.toNat < s.cfg.tSync → 32 ≤ s.bitsReceived.toNat →
    exec (.space us) s = .next { s with
      bitsReceived := 33,
      response := if s.cfg.tBit1 ≤ s.markLatch.toNat + us.toNat then 0x4 else 0x0 }

/-- 41_assembler.md R61 and 42_event_deriver.md R84, R85: the bit that makes the counter 32 latches both fields and
derives its events. -/
def Obligations.SpaceCompletesFrame : Prop :=
  ∀ (us : Duration) (s : State) (b : Bool) (code : Code), s.protoBound = true → s.cfg.wf = true →
    s.markLatch.toNat + us.toNat < s.cfg.tSync →
    b = decide (s.cfg.tBit1 ≤ s.markLatch.toNat + us.toNat) →
    s.bitsReceived.toNat = 31 → code.toNat = (appendBit s.loWord b).toNat / 256 →
    s.nowMs.toNat + s.cfg.repeatTimeoutMs < 2 ^ 32 →
    exec (.space us) s = .next { s with
      loWord := appendBit s.loWord b, bitsReceived := 32,
      addressField := s.hiWord, commandField := appendBit s.loWord b,
      repeatDeadline := BitVec.ofNat 32 (s.nowMs.toNat + s.cfg.repeatTimeoutMs),
      hasUnread := true, activeValid := true, activeCode := code,
      response := if b then 0x6 else 0x2,
      eventOut := s.eventOut ++
        (if s.activeValid = false then [.datagramReady, .pressed code]
         else if s.activeCode = code then [.datagramReady]
         else [.datagramReady, .released s.activeCode, .pressed code]) }

/-- 42_event_deriver.md R85 (D4): SPACE is refused exactly when its outcome is REPEAT or DATAGRAM and the deadline
would reach 2^32. -/
def Obligations.SpaceRefusedExactlyOnTimeWrap : Prop :=
  ∀ (us : Duration) (s : State), s.cfg.wf = true →
    (exec (.space us) s = .refused .timeWrap ↔
      s.protoBound = true ∧ 2 ^ 32 ≤ s.nowMs.toNat + s.cfg.repeatTimeoutMs ∧
        ((s.cfg.tSync ≤ s.markLatch.toNat + us.toNat ∧ s.markLatch.toNat + us.toNat < s.cfg.tLong) ∨
         (s.markLatch.toNat + us.toNat < s.cfg.tSync ∧ s.bitsReceived.toNat = 31)))

/-- 40_classifier.md R51 with 30_encoding.md R47: the class in the response follows the thresholds, a sum at a
threshold belonging to the upper class. -/
def Obligations.SpaceReportsClassOfSum : Prop :=
  ∀ (us : Duration) (s t : State), s.protoBound = true → s.cfg.wf = true → exec (.space us) s = .next t →
    t.response.toNat / 4 =
      (if s.markLatch.toNat + us.toNat < s.cfg.tBit1 then 0
       else if s.markLatch.toNat + us.toNat < s.cfg.tSync then 1
       else if s.markLatch.toNat + us.toNat < s.cfg.tLong then 2 else 3) ∧
    t.response.toNat % 4 ≠ 3

/-- 40_classifier.md R57: the sum never wraps, so a long mark or a long space is always LONG. -/
def Obligations.LongDurationNeverAliases : Prop :=
  ∀ (us : Duration) (s : State), s.protoBound = true → s.cfg.wf = true →
    (s.cfg.tLong ≤ s.markLatch.toNat ∨ s.cfg.tLong ≤ us.toNat) →
    exec (.space us) s = .next { s with bitsReceived := 0, response := 0xC }

/-- 40_classifier.md R56: an INCOMPLETE outcome writes no deadline, flag or active command and emits no event. -/
def Obligations.IncompleteIsNonEvent : Prop :=
  ∀ (us : Duration) (s t : State), s.protoBound = true → exec (.space us) s = .next t →
    t.response.toNat % 4 = 0 →
    t.repeatDeadline = s.repeatDeadline ∧ t.hasUnread = s.hasUnread ∧ t.activeValid = s.activeValid ∧
      t.activeCode = s.activeCode ∧ t.eventOut = s.eventOut

/-! Frames and ownership over all operations. -/

/-- 10_state.md R27: who writes the accumulators, the decoded fields, the active command, the deadline, the flag and
the counter. -/
def Obligations.OwnershipOfWrites : Prop :=
  ∀ (i : Instr) (s t : State), exec i s = .next t →
    ((∀ us, i ≠ .space us) →
      t.hiWord = s.hiWord ∧ t.loWord = s.loWord ∧ t.addressField = s.addressField ∧
        t.commandField = s.commandField ∧ t.repeatDeadline = s.repeatDeadline ∧ t.activeCode = s.activeCode) ∧
    ((∀ us, i ≠ .space us) → i ≠ .tick → t.activeValid = s.activeValid ∧ t.bitsReceived = s.bitsReceived) ∧
    ((∀ us, i ≠ .space us) → i ≠ .rdRxflag → t.hasUnread = s.hasUnread) ∧
    (∀ us, i = .space us →
      (s.protoBound = false ∨ (s.cfg.wf = true ∧ s.cfg.tSync ≤ s.markLatch.toNat + us.toNat)) →
      t.hiWord = s.hiWord ∧ t.loWord = s.loWord ∧ t.addressField = s.addressField ∧
        t.commandField = s.commandField)

/-- 10_state.md R11, R12: only CONNECT writes the binding, and nothing but a reset undoes or changes it. -/
def Obligations.BindingImmutable : Prop :=
  (∀ (i : Instr) (s t : State), exec i s = .next t → (∀ p pin, i ≠ .connect p pin) →
    t.protoBound = s.protoBound ∧ t.proto = s.proto ∧ t.capturePin = s.capturePin) ∧
  (∀ s t : State, step s = .next t → s.protoBound = true → s.inbox.head? ≠ some .reset →
    t.protoBound = true ∧ t.proto = s.proto ∧ t.capturePin = s.capturePin)

/-- 10_state.md R14, 43_session.md R96: CONNECT, RD_DATAGRAM and RD_RXFLAG create the session, no other operation
writes the bit, and only a reset destroys the session. -/
def Obligations.SessionCreatedNeverDestroyed : Prop :=
  (∀ (i : Instr) (s t : State), exec i s = .next t →
    t.sessionValid = (s.sessionValid || (match i with
      | .connect _ _ => true
      | .rdDatagram => true
      | .rdRxflag => true
      | .mark _ => false
      | .space _ => false
      | .tick => false
      | .rdButton => false))) ∧
  (∀ s t : State, step s = .next t → s.sessionValid = true → s.inbox.head? ≠ some .reset → t.sessionValid = true)

/-- 10_state.md R15, 70_reset_and_hazards.md R131: only MARK writes the latch, so a SPACE without a MARK uses the
mark of the cycle before. -/
def Obligations.MarkLatchSurvivesAllButMark : Prop :=
  ∀ (i : Instr) (s t : State), exec i s = .next t → (∀ us, i ≠ .mark us) → t.markLatch = s.markLatch

/-- 10_state.md R29: no operation writes the configuration. That it stands in State and stays through a reset is the
model's choice (assumption log 3, 5). -/
def Obligations.ConfigurationFixed : Prop :=
  ∀ s t : State, step s = .next t → t.cfg = s.cfg

/-- 42_event_deriver.md R89: events are only appended, at most three by one operation, and only by SPACE and TICK. -/
def Obligations.EventOutputAppends : Prop :=
  ∀ (i : Instr) (s t : State), exec i s = .next t →
    ∃ es, t.eventOut = s.eventOut ++ es ∧ es.length ≤ 3 ∧ ((∀ us, i ≠ .space us) → i ≠ .tick → es = [])

/-- 30_encoding.md R48: the three event words, for every code; kind 0b00 is never produced. -/
def Obligations.EventWordLayout : Prop :=
  ∀ (c : Code) (e : Event),
    (Event.pressed c).word.toNat = 0x100 + c.toNat ∧ (Event.released c).word.toNat = 0x200 + c.toNat ∧
      Event.datagramReady.word = 0x300 ∧ 0x100 ≤ e.word.toNat

/-- 10_state.md R25: the outputs are not state. What waits in `response` never reaches a later operation, and the events
already on the output change nothing an operation does but where its own are appended. -/
def Obligations.OutputsNotRead : Prop :=
  (∀ (s : State) (r : Response), s.inbox ≠ [] → step { s with response := r } = step s) ∧
  (∀ (i : Instr) (s t : State) (es : List Event), exec i s = .next t →
    ∃ new, t.eventOut = s.eventOut ++ new ∧
      exec i { s with eventOut := es } = .next { t with eventOut := es ++ new })

/-! Encoding. -/

/-- 30_encoding.md R43, R44: which operation each value of `op` names and how its operand is read, for every word. -/
def Obligations.OperandAssembly : Prop :=
  ∀ w : CommandWord,
    decode w =
      (if w.toNat / 2 ^ 32 = 1 then
        .ok (.connect (if w.toNat % 2 = 1 then .nec else .vendorVariant) (BitVec.ofNat 8 (w.toNat / 256)))
       else if w.toNat / 2 ^ 32 = 2 then .ok (.mark (BitVec.ofNat 32 w.toNat))
       else if w.toNat / 2 ^ 32 = 3 then .ok (.space (BitVec.ofNat 32 w.toNat))
       else if w.toNat / 2 ^ 32 = 4 then .ok .tick
       else if w.toNat / 2 ^ 32 = 5 then .ok .rdButton
       else if w.toNat / 2 ^ 32 = 6 then .ok .rdDatagram
       else if w.toNat / 2 ^ 32 = 7 then .ok .rdRxflag
       else .error (.reservedOpcode (BitVec.ofNat 4 (w.toNat / 2 ^ 32))))

/-- 30_encoding.md R42 to R44: decoding an encoded operation gives it back, for every operand value. -/
def Obligations.DecodeOfEncode : Prop :=
  ∀ i : Instr, decode (encode i) = .ok i

/-- 30_encoding.md R42, R44: a word that decodes is the encoding of its operation but for should-be-zero bits; one
whose should-be-zero bits are 0 is that encoding exactly. -/
def Obligations.EncodeOfDecode : Prop :=
  ∀ (w : CommandWord) (i : Instr), decode w = .ok i →
    encode i = w &&& ~~~((0 : BitVec 4) ++ i.unusedOperandBits) ∧ (canonicalWord w = true → encode i = w)

/-- 30_encoding.md R43 (opcode_table.json): a word matches exactly the row of its operation, and no row when it is
reserved. -/
def Obligations.OpcodeTableRowsUnambiguous : Prop :=
  ∀ w : CommandWord,
    (opcodeTable.filter (fun r => r.matchesWord w)).map OpcodeRow.mnemonic =
      (match decode w with
        | .ok i => [i.mnemonic]
        | .error _ => [])

/-- 30_encoding.md R45: a reserved word is refused by its opcode; nonzero should-be-zero bits never change what a word
decodes to. -/
def Obligations.ReservedRefusedUnusedBitsIgnored : Prop :=
  (∀ (s : State) (c : Command) (rest : List Input), s.cfg.wf = true → s.inbox = .command c :: rest →
    c.dutiful s.nowMs = true → (c.word.toNat / 2 ^ 32 = 0 ∨ 8 ≤ c.word.toNat / 2 ^ 32) →
    step s = .refused (.reservedOpcode (BitVec.ofNat 4 (c.word.toNat / 2 ^ 32)))) ∧
  (∀ (w v : CommandWord) (i : Instr), decode w = .ok i →
    (w ^^^ v) &&& ~~~((0 : BitVec 4) ++ i.unusedOperandBits) = 0 → decode v = .ok i)

/-- 30_encoding.md R42 to R45: words the spec writes out (a sanity statement). -/
def Obligations.SpecWordsDecode : Prop :=
  decode 0x100000301 = .ok (.connect .nec 3) ∧ decode 0x100000500 = .ok (.connect .vendorVariant 5) ∧
  decode 0x1FFFFFFFE = .ok (.connect .vendorVariant 0xFF) ∧ decode 0x200000258 = .ok (.mark 600) ∧
  decode 0x300000640 = .ok (.space 1600) ∧ decode 0x4FFFFFFFF = .ok .tick ∧
  decode 0x500000000 = .ok .rdButton ∧ decode 0x600000000 = .ok .rdDatagram ∧
  decode 0x7FFFFFFFF = .ok .rdRxflag ∧ decode 0x000000000 = .error (.reservedOpcode 0x0) ∧
  decode 0x800000000 = .error (.reservedOpcode 0x8) ∧ decode 0xF00000000 = .error (.reservedOpcode 0xF)

/-! The step. -/

/-- 00_scope.md R9: a step performs the operation its command word decodes to, at the sampled time, when the duties of
70_reset_and_hazards.md R128 are kept. That a word placed by withFetchWord is the very next one performed, and which table numbers are command
words, is the model's choice (assumption log 10, 11). -/
def Obligations.StepRunsDecodedInstruction : Prop :=
  (∀ (s : State) (c : Command) (rest : List Input) (i : Instr), s.cfg.wf = true →
    s.inbox = .command c :: rest → c.dutiful s.nowMs = true → decode c.word = .ok i →
    step s = exec i { s with nowMs := c.now, inbox := rest, response := 0 }) ∧
  (∀ (s : State) (w : Nat) (i : Instr), s.cfg.wf = true → decodeTableWord 40 w = some i →
    step (s.withFetchWord 40 w) = exec i { s with response := 0 })

/-- 60_exceptions.md R121 (the model's reading, assumption log 4): with nothing presented the block holds its state. -/
def Obligations.StepHoldsStateWhenIdle : Prop :=
  ∀ s : State, s.cfg.wf = true → s.inbox = [] → step s = .next s

/-- 70_reset_and_hazards.md R125, R126, 20_memory.md R30: a reset between operations puts every field of the record in
the reset state and empties the event output, whatever came before. That the configuration and the waiting inputs stay
and time starts afresh is the model's choice (assumption log 5). -/
def Obligations.StepResetsRecord : Prop :=
  ∀ (s : State) (rest : List Input), s.cfg.wf = true → s.inbox = .reset :: rest →
    step s = .next {
      protoBound := false, proto := .vendorVariant, capturePin := 0, sessionValid := false, markLatch := 0,
      bitsReceived := 0, hiWord := 0, loWord := 0, addressField := 0, commandField := 0, hasUnread := false,
      activeValid := false, activeCode := 0, repeatDeadline := 0, cfg := s.cfg, nowMs := 0, inbox := rest,
      response := 0, eventOut := [] }

/-- 00_scope.md R6: a configuration outside the bounds is refused whole, one inside is never refused as such, and the
document's thresholds are inside. -/
def Obligations.ConfigurationBoundsRefused : Prop :=
  (∀ (timeout period : Nat) (table : List (String × Nat)),
    (Config.withOpen timeout period table).wf = true ↔ timeout < 2 ^ 32) ∧
  ∀ s : State,
    step s = .refused .badConfiguration ↔
      ¬ (0 < s.cfg.tBit1 ∧ s.cfg.tBit1 ≤ s.cfg.tSync ∧ s.cfg.tSync ≤ s.cfg.tLong ∧
        s.cfg.repeatTimeoutMs < 2 ^ 32)

/-- 60_exceptions.md R112: the only refusals of a step under a good configuration, each with its cause. The order in
which broken duties are named is the model's choice (assumption log 7), and so is that a sink which does not accept
refuses only an operation that emits (assumption log 8). -/
def Obligations.StepRefusalCauses : Prop :=
  ∀ (s : State) (r : Refusal), s.cfg.wf = true →
    (step s = .refused r ↔
      ∃ c rest, s.inbox = .command c :: rest ∧
        ((c.overlaps = true ∧ r = .overlappingOperation) ∨
         (c.overlaps = false ∧ c.now.toNat < s.nowMs.toNat ∧ r = .timeDecreased) ∨
         (c.overlaps = false ∧ s.nowMs.toNat ≤ c.now.toNat ∧
           (c.word.toNat / 2 ^ 32 = 0 ∨ 8 ≤ c.word.toNat / 2 ^ 32) ∧
           r = .reservedOpcode (BitVec.ofNat 4 (c.word.toNat / 2 ^ 32))) ∨
         (c.overlaps = false ∧ s.nowMs.toNat ≤ c.now.toNat ∧ s.protoBound = true ∧
           (∃ us, decode c.word = .ok (.space us) ∧
             ((s.cfg.tSync ≤ s.markLatch.toNat + us.toNat ∧ s.markLatch.toNat + us.toNat < s.cfg.tLong) ∨
              (s.markLatch.toNat + us.toNat < s.cfg.tSync ∧ s.bitsReceived.toNat = 31))) ∧
           2 ^ 32 ≤ c.now.toNat + s.cfg.repeatTimeoutMs ∧ r = .timeWrap) ∨
         (c.overlaps = false ∧ s.nowMs.toNat ≤ c.now.toNat ∧ c.sinkAccepts = false ∧
           (∃ i t, decode c.word = .ok i ∧ exec i { s with nowMs := c.now, inbox := rest, response := 0 } = .next t ∧
             s.eventOut ≠ t.eventOut) ∧
           r = .sinkDoesNotAccept)))

/-- 60_exceptions.md R112: a schedule that keeps the environment's duties (70_reset_and_hazards.md R128 items 1 to 4, the
second asked only of a SPACE that yields REPEAT or DATAGRAM when its turn comes) and names only operations of the block
runs on. That steps go on when the schedule is empty, and that time starts afresh after a reset, is the model's choice
(assumption log 4, 5). -/
def Obligations.DutifulScheduleNeverStops : Prop :=
  ∀ (s : State) (k : Nat), s.cfg.wf = true → scheduleWf s.nowMs s.inbox = true →
    (∀ c, Input.command c ∈ s.inbox → ∃ i, decode c.word = .ok i) →
    (∀ (j : Nat) (t : State), j < k → Host.Core.run Sys2Proof.core j s = .next t → t.deadlineFits = true) →
    ∃ t, Host.Core.run Sys2Proof.core k s = .next t

/-- 10_state.md R24: `now` is the sampled time of the command, and does not decrease across operations. That the model
keeps it in nowMs, and that a reset starts it afresh, is the model's choice (assumption log 2, 5). -/
def Obligations.TimeNeverDecreases : Prop :=
  ∀ s t : State, step s = .next t →
    (∀ c rest, s.inbox = .command c :: rest → t.nowMs = c.now ∧ t.inbox = rest) ∧
    (s.inbox.head? ≠ some .reset → s.nowMs.toNat ≤ t.nowMs.toNat)

/-! Reset. -/

/-- 70_reset_and_hazards.md R125: every field of the record and the outputs after reset. -/
def Obligations.ResetValues : Prop :=
  State.reset.protoBound = false ∧ State.reset.proto = .vendorVariant ∧ State.reset.capturePin = 0 ∧
  State.reset.sessionValid = false ∧ State.reset.markLatch = 0 ∧ State.reset.bitsReceived = 0 ∧
  State.reset.hiWord = 0 ∧ State.reset.loWord = 0 ∧ State.reset.addressField = 0 ∧ State.reset.commandField = 0 ∧
  State.reset.hasUnread = false ∧ State.reset.activeValid = false ∧ State.reset.activeCode = 0 ∧
  State.reset.repeatDeadline = 0 ∧ State.reset.captureEnable = false ∧ State.reset.tickEnable = false ∧
  State.reset.eventOut = []

/-- 70_reset_and_hazards.md R126: any operation may come first after reset, under any configuration and at any time,
and one that creates the session without binding changes no other field of the record. -/
def Obligations.AnyOperationFirstAfterReset : Prop :=
  ∀ (i : Instr) (cfg : Config) (now : Time), ∃ t,
    exec i { State.reset with cfg := cfg, nowMs := now } = .next t ∧
    t.eventOut = [] ∧
    ((∀ p pin, i ≠ .connect p pin) →
      t = { State.reset with
        cfg := cfg, nowMs := now, sessionValid := t.sessionValid, response := t.response })

/-! Invariants of every step. -/

/-- 10_state.md R23: every step keeps the record's invariants. -/
def Obligations.StepKeepsRecordInvariants : Prop :=
  ∀ s t : State, s.RecordInv → step s = .next t → t.RecordInv

/-- 41_assembler.md R61, R62 and 42_event_deriver.md R85 (derived): every step keeps that a finished frame's accumulators
are the decoded fields and that the held button is the last one decoded. -/
def Obligations.StepKeepsFrameInvariants : Prop :=
  ∀ s t : State, s.FrameInv → step s = .next t → t.FrameInv

/-- 42_event_deriver.md R85 to R87, R93 item 3 (derived): every step keeps that presses and releases on the event output
alternate, each release naming the button pressed, and that reading them back gives the active command. -/
def Obligations.StepKeepsEventsMatchingHeld : Prop :=
  ∀ s t : State, s.EventsMatchHeld → step s = .next t → t.EventsMatchHeld

/-- The three invariants hold at reset. -/
def Obligations.InvariantsHoldAtReset : Prop :=
  State.reset.RecordInv ∧ State.reset.FrameInv ∧ State.reset.EventsMatchHeld

/-- 10_state.md R23 item 2 with 42_event_deriver.md R85: an operation that starts a hold schedules its deadline, and
every operation that writes the deadline writes its own time plus the timeout. -/
def Obligations.DeadlineWrittenFromNow : Prop :=
  ∀ (i : Instr) (s t : State), exec i s = .next t →
    ((s.activeValid = false ∧ t.activeValid = true) ∨ t.repeatDeadline ≠ s.repeatDeadline) →
    t.repeatDeadline.toNat = s.nowMs.toNat + s.cfg.repeatTimeoutMs

/-! Whole frames: 41_assembler.md, section 2. -/

/-- 41_assembler.md R64 item 1: the fields of a frame without stuffing are its 32 bits, most significant first, whatever
the accumulators held. -/
def Obligations.FrameHoldsItsBits : Prop :=
  ∀ (s : State) (bs : List Bool), s.bitsReceived = 0 → bs.length = 32 →
    (s.proto = .nec ∨ ∀ b ∈ bs.take 8, b = false) →
    (foldBits bs s).1.addressField = wordOfBits (bs.take 16) ∧
    (foldBits bs s).1.commandField = wordOfBits (bs.drop 16) ∧
    (foldBits bs s).1.bitsReceived = 32

/-- 41_assembler.md R64 item 2: a vendor frame whose first 1 is at position q (`zeros` + 1) holds 0x0080 and its next
seven bits, then its next sixteen, whatever the accumulators held. -/
def Obligations.StuffedFrameHoldsItsBits : Prop :=
  ∀ (s : State) (zeros : Nat) (rest : List Bool), s.bitsReceived = 0 → s.proto = .vendorVariant → zeros < 8 →
    rest.length = 23 →
    (foldBits (List.replicate zeros false ++ true :: rest) s).1.addressField =
      0x0080 ||| wordOfBits (rest.take 7) ∧
    (foldBits (List.replicate zeros false ++ true :: rest) s).1.commandField = wordOfBits (rest.drop 7) ∧
    (foldBits (List.replicate zeros false ++ true :: rest) s).1.bitsReceived = 32

/-- 41_assembler.md R65: exactly one completion, on the 32nd bit without stuffing and on bit q + 23 with it. -/
def Obligations.ExactlyOneCompletion : Prop :=
  (∀ (s : State) (bs : List Bool), s.bitsReceived = 0 → 32 ≤ bs.length →
    (s.proto = .nec ∨ ∀ b ∈ bs.take 8, b = false) →
    (foldBits bs s).2 =
      List.replicate 31 .incomplete ++ .datagram :: List.replicate (bs.length - 32) .incomplete) ∧
  (∀ (s : State) (zeros : Nat) (rest : List Bool), s.bitsReceived = 0 → s.proto = .vendorVariant → zeros < 8 →
    23 ≤ rest.length →
    (foldBits (List.replicate zeros false ++ true :: rest) s).2 =
      List.replicate (zeros + 23) .incomplete ++ .datagram :: List.replicate (rest.length - 23) .incomplete)

/-- 70_reset_and_hazards.md R132: after a completed frame every data bit is ignored until the counter is reset. -/
def Obligations.OverrunUntilCounterReset : Prop :=
  ∀ (s : State) (bs : List Bool), 32 ≤ s.bitsReceived.toNat → bs ≠ [] →
    foldBits bs s = ({ s with bitsReceived := 33 }, List.replicate bs.length .incomplete)

/-- 30_encoding.md R50 with 41_assembler.md R64: the FRAME pseudo-instruction delivers its two fields, from any bound
state and under any OPEN parameters, as one datagram of 66 commands; under the vendor variant, for an address below 256,
since a larger one stuffs (R60). -/
def Obligations.FramePseudoDeliversFields : Prop :=
  ∀ (s : State) (a c : Field16) (now : Time) (timeout period : Nat) (table : List (String × Nat)),
    s.protoBound = true → s.cfg = Config.withOpen timeout period table →
    now.toNat + timeout < 2 ^ 32 → (s.proto = .nec ∨ a.toNat < 256) →
    (AsmOp.frame a.toNat c.toNat).expand.length = 66 ∧
    ∃ t, runTimed ((AsmOp.frame a.toNat c.toNat).expand.map (fun i => (i, now))) s = .next t ∧
      t.addressField = a ∧ t.commandField = c ∧ t.bitsReceived = 32 ∧ t.hasUnread = true ∧
      t.activeValid = true ∧ t.activeCode.toNat = c.toNat / 256 ∧
      t.repeatDeadline.toNat = now.toNat + timeout

/-- 30_encoding.md R50: the class of each pseudo-instruction's sum under this hardware's thresholds. -/
def Obligations.PseudoInstructionClasses : Prop :=
  ∀ (timeout period : Nat) (table : List (String × Nat)),
    AsmOp.bit0.expand = [.mark 600, .space 600] ∧ AsmOp.bit1.expand = [.mark 600, .space 1600] ∧
    AsmOp.leader.expand = [.mark 9000, .space 4500] ∧ AsmOp.rpt.expand = [.mark 9000, .space 2250] ∧
    AsmOp.gap.expand = [.mark 600, .space 40000] ∧
    classify (Config.withOpen timeout period table) (pulseSum 600 600) = .bit0 ∧
    classify (Config.withOpen timeout period table) (pulseSum 600 1600) = .bit1 ∧
    classify (Config.withOpen timeout period table) (pulseSum 9000 4500) = .long ∧
    classify (Config.withOpen timeout period table) (pulseSum 9000 2250) = .repeatCode ∧
    classify (Config.withOpen timeout period table) (pulseSum 600 40000) = .long

/-! Press and release: 42_event_deriver.md, section 5, and the hazards. -/

/-- 42_event_deriver.md R93 item 1: while no refresh comes and no TICK is late nothing is released, and the first late
TICK releases the held button. -/
def Obligations.FirstLateTickReleases : Prop :=
  ∀ (s : State) (ops : List TimedOp) (now : Time), s.protoBound = true → s.activeValid = true →
    quietRun ops s = true → s.repeatDeadline.toNat < now.toNat →
    ∃ t u, runTimed ops s = .next t ∧ t.eventOut = s.eventOut ∧ execTimed (.tick, now) t = .next u ∧
      u.eventOut = s.eventOut ++ [.released s.activeCode] ∧ u.activeValid = false ∧ u.response = 1

/-- 42_event_deriver.md R93 item 2: datagrams of one code, repeats and TICKs that find nothing timed out give exactly one
press of it and no release, whatever other operations come between, the CONNECT that binds among them. -/
def Obligations.HeldButtonPressedOnce : Prop :=
  ∀ (s : State) (c : Code) (ops : List TimedOp), s.activeValid = false →
    heldRun c ops s = true → 0 < datagramCount ops s →
    ∃ t es, runTimed ops s = .next t ∧ t.eventOut = s.eventOut ++ es ∧ pressReleaseEvents es = [.pressed c] ∧
      t.activeValid = true ∧ t.activeCode = c

/-- 42_event_deriver.md R93 item 4: after a release by timeout no REPEAT or other operation presses anything; the next
DATAGRAM does, of the same code as well. -/
def Obligations.PressAgainAfterTimeout : Prop :=
  ∀ (s t v : State) (ops : List TimedOp), s.protoBound = true → s.activeValid = true →
    s.repeatDeadline.toNat < s.nowMs.toNat → exec .tick s = .next t →
    runTimed ops t = .next v → datagramCount ops t = 0 →
    v.activeValid = false ∧ v.eventOut = t.eventOut ∧
    ∀ (us : Duration) (now : Time) (u : State), execTimed (.space us, now) v = .next u →
      opOutcome (.space us) v = .datagram → u.commandField.toNat / 256 = s.activeCode.toNat →
      u.eventOut = v.eventOut ++ [.datagramReady, .pressed s.activeCode] ∧
        u.activeValid = true ∧ u.activeCode = s.activeCode

/-- 70_reset_and_hazards.md R135: a TICK and a frame-completing SPACE of the held code at one instant, in both orders. -/
def Obligations.SpaceTickRaceBothOrders : Prop :=
  ∀ (us : Duration) (s : State) (b : Bool), s.protoBound = true → s.cfg.wf = true → s.activeValid = true →
    s.repeatDeadline.toNat < s.nowMs.toNat → s.bitsReceived.toNat = 31 →
    s.markLatch.toNat + us.toNat < s.cfg.tSync →
    b = decide (s.cfg.tBit1 ≤ s.markLatch.toNat + us.toNat) →
    (appendBit s.loWord b).toNat / 256 = s.activeCode.toNat →
    s.nowMs.toNat + s.cfg.repeatTimeoutMs < 2 ^ 32 →
    (∃ t u, exec .tick s = .next t ∧ exec (.space us) t = .next u ∧
      t.eventOut = s.eventOut ++ [.released s.activeCode] ∧ u.eventOut = t.eventOut ∧
      u.activeValid = false ∧ u.addressField = s.addressField ∧ u.commandField = s.commandField ∧
      u.bitsReceived = (if s.proto = .vendorVariant ∧ b = true then 9 else 1) ∧
      u.response.toNat % 4 = 0) ∧
    (∃ t u, exec (.space us) s = .next t ∧ exec .tick t = .next u ∧
      t.eventOut = s.eventOut ++ [.datagramReady] ∧
      t.repeatDeadline.toNat = s.nowMs.toNat + s.cfg.repeatTimeoutMs ∧
      u = { t with response := 0 } ∧ u.activeValid = true ∧ u.activeCode = s.activeCode)

/-- 70_reset_and_hazards.md R130: a release by timeout loses the frame that is arriving: its remaining bits are counted
from position 1, so fewer than 32 of them (without stuffing) complete nothing. -/
def Obligations.TimeoutLosesArrivingFrame : Prop :=
  ∀ (s t : State) (bs : List Bool), s.protoBound = true → s.activeValid = true →
    s.repeatDeadline.toNat < s.nowMs.toNat → exec .tick s = .next t → bs.length < 32 →
    (s.proto = .nec ∨ ∀ b ∈ bs.take 8, b = false) →
    (foldBits bs t).2 = List.replicate bs.length .incomplete ∧
    (foldBits bs t).1.bitsReceived.toNat = bs.length ∧
    (foldBits bs t).1.addressField = s.addressField ∧ (foldBits bs t).1.commandField = s.commandField

/-! The host's side of the block. -/

/-- 42_event_deriver.md R91: a registered handler runs, after those registered before it, for exactly the events of its
list whose code its matcher accepts; a registration changes nothing for other events; with none registered, none
runs. -/
def Obligations.HandlersRunInRegistrationOrder : Prop :=
  (∀ e : Event, (Registry.mk [] []).dispatch e = []) ∧
  ∀ (r : Registry) (m : Matcher) (a : Action) (k : Nat) (c : Code),
    (r.register m a k).dispatch (.pressed c) =
      r.dispatch (.pressed c) ++ (if a = .pressed ∧ (m = .any ∨ m = .specific c) then [k] else []) ∧
    (r.register m a k).dispatch (.released c) =
      r.dispatch (.released c) ++ (if a = .released ∧ (m = .any ∨ m = .specific c) then [k] else [])

/-- 43_session.md R101: ten characters, `0x` and eight digits 0-9, A-F, most significant nibble first. -/
def Obligations.HexRenderingDigits : Prop :=
  ∀ (s : State) (j : Nat), j < 8 →
    (lastDatagramHex s).1.toList.length = 10 ∧
    (lastDatagramHex s).1.toList.take 2 = ['0', 'x'] ∧
    (lastDatagramHex s).1.toList[2 + j]? =
      ("0123456789ABCDEF".toList)[(s.addressField.toNat * 65536 + s.commandField.toNat) / 16 ^ (7 - j) % 16]? ∧
    (lastDatagramHex s).2 = { s with sessionValid := true }
end

