-- ==== Sys2Proof/Laws/Encoding.lean ====
section
/-! SUPPORT. The fields of a packed command word. -/

namespace Sys2Proof

@[simp] theorem opField_packCommand (op : Opcode) (x : Operand) : opField (packCommand op x) = op := by
  apply BitVec.eq_of_getLsbD_eq
  intro i hi
  simp only [opField, packCommand, BitVec.getLsbD_extractLsb', BitVec.getLsbD_append]
  simp [hi]

@[simp] theorem operandField_packCommand (op : Opcode) (x : Operand) : operandField (packCommand op x) = x := by
  apply BitVec.eq_of_getLsbD_eq
  intro i hi
  simp only [operandField, packCommand, BitVec.getLsbD_extractLsb', BitVec.getLsbD_append]
  simp [hi]

theorem packCommand_fields (w : CommandWord) : packCommand (opField w) (operandField w) = w := by
  apply BitVec.eq_of_getLsbD_eq
  intro i hi
  simp only [opField, operandField, packCommand, BitVec.getLsbD_append, BitVec.getLsbD_extractLsb']
  by_cases h : i < 32
  · simp [h]
  · have : i - 32 < 4 := by omega
    simp [h, this]
    congr 1
    omega

/-- Decoding looks at `op` alone to select the operation (R42). -/
theorem decode_eq_ok_opcode {w : CommandWord} {i : Instr} (h : decode w = .ok i) : opField w = i.opcode := by
  apply BitVec.eq_of_toNat_eq
  unfold decode at h
  split at h <;> simp_all [Instr.opcode] <;> subst h <;> rfl

/-- A word is refused exactly for a reserved `op`, and by that `op`'s name (R45). -/
theorem decode_eq_error {w : CommandWord} {e : DecodeError} (h : decode w = .error e) :
    e = .reservedOpcode (opField w) := by
  unfold decode at h
  split at h <;> simp_all

theorem decodeTableWord_of_command {nbits w : Nat} {word : CommandWord} {i : Instr}
    (hw : commandWordOf nbits w = some word) (hd : decode word = .ok i) : decodeTableWord nbits w = some i := by
  simp [decodeTableWord, hw, hd]

end Sys2Proof
end

