-- ==== Sys2Proof/Laws/State.lean ====
section
/-! SUPPORT. One lemma per field for each named operation on the state, so that no proof unfolds an update. -/

namespace Sys2Proof.Machine

variable (s : State)

/-! `State.respond` -/

@[simp] theorem State.respond_protoBound (w : Response) : (s.respond w).protoBound = s.protoBound := rfl
@[simp] theorem State.respond_proto (w : Response) : (s.respond w).proto = s.proto := rfl
@[simp] theorem State.respond_capturePin (w : Response) : (s.respond w).capturePin = s.capturePin := rfl
@[simp] theorem State.respond_sessionValid (w : Response) : (s.respond w).sessionValid = s.sessionValid := rfl
@[simp] theorem State.respond_markLatch (w : Response) : (s.respond w).markLatch = s.markLatch := rfl
@[simp] theorem State.respond_bitsReceived (w : Response) : (s.respond w).bitsReceived = s.bitsReceived := rfl
@[simp] theorem State.respond_hiWord (w : Response) : (s.respond w).hiWord = s.hiWord := rfl
@[simp] theorem State.respond_loWord (w : Response) : (s.respond w).loWord = s.loWord := rfl
@[simp] theorem State.respond_addressField (w : Response) : (s.respond w).addressField = s.addressField := rfl
@[simp] theorem State.respond_commandField (w : Response) : (s.respond w).commandField = s.commandField := rfl
@[simp] theorem State.respond_hasUnread (w : Response) : (s.respond w).hasUnread = s.hasUnread := rfl
@[simp] theorem State.respond_activeValid (w : Response) : (s.respond w).activeValid = s.activeValid := rfl
@[simp] theorem State.respond_activeCode (w : Response) : (s.respond w).activeCode = s.activeCode := rfl
@[simp] theorem State.respond_repeatDeadline (w : Response) : (s.respond w).repeatDeadline = s.repeatDeadline := rfl
@[simp] theorem State.respond_cfg (w : Response) : (s.respond w).cfg = s.cfg := rfl
@[simp] theorem State.respond_nowMs (w : Response) : (s.respond w).nowMs = s.nowMs := rfl
@[simp] theorem State.respond_inbox (w : Response) : (s.respond w).inbox = s.inbox := rfl
@[simp] theorem State.respond_response (w : Response) : (s.respond w).response = w := rfl
@[simp] theorem State.respond_eventOut (w : Response) : (s.respond w).eventOut = s.eventOut := rfl

/-! `State.emit` -/

@[simp] theorem State.emit_protoBound (e : Event) : (s.emit e).protoBound = s.protoBound := rfl
@[simp] theorem State.emit_proto (e : Event) : (s.emit e).proto = s.proto := rfl
@[simp] theorem State.emit_capturePin (e : Event) : (s.emit e).capturePin = s.capturePin := rfl
@[simp] theorem State.emit_sessionValid (e : Event) : (s.emit e).sessionValid = s.sessionValid := rfl
@[simp] theorem State.emit_markLatch (e : Event) : (s.emit e).markLatch = s.markLatch := rfl
@[simp] theorem State.emit_bitsReceived (e : Event) : (s.emit e).bitsReceived = s.bitsReceived := rfl
@[simp] theorem State.emit_hiWord (e : Event) : (s.emit e).hiWord = s.hiWord := rfl
@[simp] theorem State.emit_loWord (e : Event) : (s.emit e).loWord = s.loWord := rfl
@[simp] theorem State.emit_addressField (e : Event) : (s.emit e).addressField = s.addressField := rfl
@[simp] theorem State.emit_commandField (e : Event) : (s.emit e).commandField = s.commandField := rfl
@[simp] theorem State.emit_hasUnread (e : Event) : (s.emit e).hasUnread = s.hasUnread := rfl
@[simp] theorem State.emit_activeValid (e : Event) : (s.emit e).activeValid = s.activeValid := rfl
@[simp] theorem State.emit_activeCode (e : Event) : (s.emit e).activeCode = s.activeCode := rfl
@[simp] theorem State.emit_repeatDeadline (e : Event) : (s.emit e).repeatDeadline = s.repeatDeadline := rfl
@[simp] theorem State.emit_cfg (e : Event) : (s.emit e).cfg = s.cfg := rfl
@[simp] theorem State.emit_nowMs (e : Event) : (s.emit e).nowMs = s.nowMs := rfl
@[simp] theorem State.emit_inbox (e : Event) : (s.emit e).inbox = s.inbox := rfl
@[simp] theorem State.emit_response (e : Event) : (s.emit e).response = s.response := rfl
@[simp] theorem State.emit_eventOut (e : Event) : (s.emit e).eventOut = s.eventOut ++ [e] := rfl

/-! `State.clearCounter` -/

@[simp] theorem State.clearCounter_protoBound : s.clearCounter.protoBound = s.protoBound := rfl
@[simp] theorem State.clearCounter_proto : s.clearCounter.proto = s.proto := rfl
@[simp] theorem State.clearCounter_capturePin : s.clearCounter.capturePin = s.capturePin := rfl
@[simp] theorem State.clearCounter_sessionValid : s.clearCounter.sessionValid = s.sessionValid := rfl
@[simp] theorem State.clearCounter_markLatch : s.clearCounter.markLatch = s.markLatch := rfl
@[simp] theorem State.clearCounter_bitsReceived : s.clearCounter.bitsReceived = 0 := rfl
@[simp] theorem State.clearCounter_hiWord : s.clearCounter.hiWord = s.hiWord := rfl
@[simp] theorem State.clearCounter_loWord : s.clearCounter.loWord = s.loWord := rfl
@[simp] theorem State.clearCounter_addressField : s.clearCounter.addressField = s.addressField := rfl
@[simp] theorem State.clearCounter_commandField : s.clearCounter.commandField = s.commandField := rfl
@[simp] theorem State.clearCounter_hasUnread : s.clearCounter.hasUnread = s.hasUnread := rfl
@[simp] theorem State.clearCounter_activeValid : s.clearCounter.activeValid = s.activeValid := rfl
@[simp] theorem State.clearCounter_activeCode : s.clearCounter.activeCode = s.activeCode := rfl
@[simp] theorem State.clearCounter_repeatDeadline : s.clearCounter.repeatDeadline = s.repeatDeadline := rfl
@[simp] theorem State.clearCounter_cfg : s.clearCounter.cfg = s.cfg := rfl
@[simp] theorem State.clearCounter_nowMs : s.clearCounter.nowMs = s.nowMs := rfl
@[simp] theorem State.clearCounter_inbox : s.clearCounter.inbox = s.inbox := rfl
@[simp] theorem State.clearCounter_response : s.clearCounter.response = s.response := rfl
@[simp] theorem State.clearCounter_eventOut : s.clearCounter.eventOut = s.eventOut := rfl

/-! `State.ensureSession` -/

@[simp] theorem State.ensureSession_protoBound : s.ensureSession.protoBound = s.protoBound := rfl
@[simp] theorem State.ensureSession_proto : s.ensureSession.proto = s.proto := rfl
@[simp] theorem State.ensureSession_capturePin : s.ensureSession.capturePin = s.capturePin := rfl
@[simp] theorem State.ensureSession_sessionValid : s.ensureSession.sessionValid = true := rfl
@[simp] theorem State.ensureSession_markLatch : s.ensureSession.markLatch = s.markLatch := rfl
@[simp] theorem State.ensureSession_bitsReceived : s.ensureSession.bitsReceived = s.bitsReceived := rfl
@[simp] theorem State.ensureSession_hiWord : s.ensureSession.hiWord = s.hiWord := rfl
@[simp] theorem State.ensureSession_loWord : s.ensureSession.loWord = s.loWord := rfl
@[simp] theorem State.ensureSession_addressField : s.ensureSession.addressField = s.addressField := rfl
@[simp] theorem State.ensureSession_commandField : s.ensureSession.commandField = s.commandField := rfl
@[simp] theorem State.ensureSession_hasUnread : s.ensureSession.hasUnread = s.hasUnread := rfl
@[simp] theorem State.ensureSession_activeValid : s.ensureSession.activeValid = s.activeValid := rfl
@[simp] theorem State.ensureSession_activeCode : s.ensureSession.activeCode = s.activeCode := rfl
@[simp] theorem State.ensureSession_repeatDeadline : s.ensureSession.repeatDeadline = s.repeatDeadline := rfl
@[simp] theorem State.ensureSession_cfg : s.ensureSession.cfg = s.cfg := rfl
@[simp] theorem State.ensureSession_nowMs : s.ensureSession.nowMs = s.nowMs := rfl
@[simp] theorem State.ensureSession_inbox : s.ensureSession.inbox = s.inbox := rfl
@[simp] theorem State.ensureSession_response : s.ensureSession.response = s.response := rfl
@[simp] theorem State.ensureSession_eventOut : s.ensureSession.eventOut = s.eventOut := rfl

/-! `State.accept` -/

@[simp] theorem State.accept_protoBound (now : Time) (rest : List Input) : (s.accept now rest).protoBound = s.protoBound := rfl
@[simp] theorem State.accept_proto (now : Time) (rest : List Input) : (s.accept now rest).proto = s.proto := rfl
@[simp] theorem State.accept_capturePin (now : Time) (rest : List Input) : (s.accept now rest).capturePin = s.capturePin := rfl
@[simp] theorem State.accept_sessionValid (now : Time) (rest : List Input) : (s.accept now rest).sessionValid = s.sessionValid := rfl
@[simp] theorem State.accept_markLatch (now : Time) (rest : List Input) : (s.accept now rest).markLatch = s.markLatch := rfl
@[simp] theorem State.accept_bitsReceived (now : Time) (rest : List Input) : (s.accept now rest).bitsReceived = s.bitsReceived := rfl
@[simp] theorem State.accept_hiWord (now : Time) (rest : List Input) : (s.accept now rest).hiWord = s.hiWord := rfl
@[simp] theorem State.accept_loWord (now : Time) (rest : List Input) : (s.accept now rest).loWord = s.loWord := rfl
@[simp] theorem State.accept_addressField (now : Time) (rest : List Input) : (s.accept now rest).addressField = s.addressField := rfl
@[simp] theorem State.accept_commandField (now : Time) (rest : List Input) : (s.accept now rest).commandField = s.commandField := rfl
@[simp] theorem State.accept_hasUnread (now : Time) (rest : List Input) : (s.accept now rest).hasUnread = s.hasUnread := rfl
@[simp] theorem State.accept_activeValid (now : Time) (rest : List Input) : (s.accept now rest).activeValid = s.activeValid := rfl
@[simp] theorem State.accept_activeCode (now : Time) (rest : List Input) : (s.accept now rest).activeCode = s.activeCode := rfl
@[simp] theorem State.accept_repeatDeadline (now : Time) (rest : List Input) : (s.accept now rest).repeatDeadline = s.repeatDeadline := rfl
@[simp] theorem State.accept_cfg (now : Time) (rest : List Input) : (s.accept now rest).cfg = s.cfg := rfl
@[simp] theorem State.accept_nowMs (now : Time) (rest : List Input) : (s.accept now rest).nowMs = now := rfl
@[simp] theorem State.accept_inbox (now : Time) (rest : List Input) : (s.accept now rest).inbox = rest := rfl
@[simp] theorem State.accept_response (now : Time) (rest : List Input) : (s.accept now rest).response = 0 := rfl
@[simp] theorem State.accept_eventOut (now : Time) (rest : List Input) : (s.accept now rest).eventOut = s.eventOut := rfl

/-! `State.applyReset`: every field of State.reset but the configuration and the inputs that wait. -/

@[simp] theorem State.applyReset_cfg (rest : List Input) : (s.applyReset rest).cfg = s.cfg := rfl
@[simp] theorem State.applyReset_inbox (rest : List Input) : (s.applyReset rest).inbox = rest := rfl
@[simp] theorem State.applyReset_protoBound (rest : List Input) : (s.applyReset rest).protoBound = false := rfl
@[simp] theorem State.applyReset_proto (rest : List Input) : (s.applyReset rest).proto = .vendorVariant := rfl
@[simp] theorem State.applyReset_capturePin (rest : List Input) : (s.applyReset rest).capturePin = 0 := rfl
@[simp] theorem State.applyReset_sessionValid (rest : List Input) : (s.applyReset rest).sessionValid = false := rfl
@[simp] theorem State.applyReset_markLatch (rest : List Input) : (s.applyReset rest).markLatch = 0 := rfl
@[simp] theorem State.applyReset_bitsReceived (rest : List Input) : (s.applyReset rest).bitsReceived = 0 := rfl
@[simp] theorem State.applyReset_hiWord (rest : List Input) : (s.applyReset rest).hiWord = 0 := rfl
@[simp] theorem State.applyReset_loWord (rest : List Input) : (s.applyReset rest).loWord = 0 := rfl
@[simp] theorem State.applyReset_addressField (rest : List Input) : (s.applyReset rest).addressField = 0 := rfl
@[simp] theorem State.applyReset_commandField (rest : List Input) : (s.applyReset rest).commandField = 0 := rfl
@[simp] theorem State.applyReset_hasUnread (rest : List Input) : (s.applyReset rest).hasUnread = false := rfl
@[simp] theorem State.applyReset_activeValid (rest : List Input) : (s.applyReset rest).activeValid = false := rfl
@[simp] theorem State.applyReset_activeCode (rest : List Input) : (s.applyReset rest).activeCode = 0 := rfl
@[simp] theorem State.applyReset_repeatDeadline (rest : List Input) : (s.applyReset rest).repeatDeadline = 0 := rfl
@[simp] theorem State.applyReset_nowMs (rest : List Input) : (s.applyReset rest).nowMs = 0 := rfl
@[simp] theorem State.applyReset_response (rest : List Input) : (s.applyReset rest).response = 0 := rfl
@[simp] theorem State.applyReset_eventOut (rest : List Input) : (s.applyReset rest).eventOut = [] := rfl

end Sys2Proof.Machine
end

