-- ==== Sys2Proof/Laws/Operations.lean ====
section
/-! SUPPORT. For each shared operation, what it can do, said once. Proofs cite these instead of unfolding. -/

namespace Sys2Proof.Machine

/-! Operands -/

theorem pulseSum_lt (m s : Duration) : pulseSum m s < 2 ^ 33 := by
  have := m.isLt; have := s.isLt; unfold pulseSum; omega

theorem nextDeadline_eq_some {c : Config} {now d : Time} :
    nextDeadline c now = some d ↔ now.toNat + c.repeatTimeoutMs < 2 ^ 32 ∧
      d.toNat = now.toNat + c.repeatTimeoutMs := by
  unfold nextDeadline timeModulus
  split
  · constructor
    · intro h; cases h
    · rintro ⟨h, -⟩; omega
  · rename_i h
    have hlt : now.toNat + c.repeatTimeoutMs < 2 ^ 32 := by omega
    simp only [Option.some.injEq]
    constructor
    · rintro rfl
      exact ⟨hlt, by rw [BitVec.toNat_ofNat, Nat.mod_eq_of_lt hlt]⟩
    · rintro ⟨-, hd⟩
      apply BitVec.eq_of_toNat_eq
      rw [BitVec.toNat_ofNat, Nat.mod_eq_of_lt hlt, hd]

theorem nextDeadline_eq_none {c : Config} {now : Time} :
    nextDeadline c now = none ↔ 2 ^ 32 ≤ now.toNat + c.repeatTimeoutMs := by
  unfold nextDeadline
  split <;> simp_all

theorem deadlinePassed_iff {now d : Time} : deadlinePassed now d = true ↔ d.toNat < now.toNat := by
  simp [deadlinePassed]

theorem shiftIn_toNat (r : Field16) (b : Bool) : (shiftIn r b).toNat = (2 * r.toNat + b.toNat) % 2 ^ 16 := by
  have h : shiftIn r b = BitVec.ofNat 16 (2 * r.toNat + b.toNat) := by
    cases b
    · apply BitVec.eq_of_toNat_eq
      simp [shiftIn, BitVec.toNat_shiftLeft, Nat.shiftLeft_eq, Nat.mul_comm]
    · apply BitVec.eq_of_getLsbD_eq
      intro i hi
      rcases i with _ | j
      · simp [shiftIn, BitVec.getLsbD_ofNat, Nat.testBit_zero]
      · have h2 : (2 * r.toNat + 1).testBit (j + 1) = r.toNat.testBit j := by
          rw [Nat.testBit_succ]; congr 1; omega
        rw [BitVec.getLsbD_ofNat, Bool.toNat_true, h2]
        have hl : (shiftIn r true).getLsbD (j + 1) = r.getLsbD j := by
          simp [shiftIn, hi, BitVec.getLsbD_eq_getElem (show j < 16 by omega)]
        rw [hl]
        simp [hi, BitVec.getLsbD]
  rw [h]; simp

/-- The shift of R59 is doubling, adding the bit, and keeping 16 bits. -/
theorem shiftIn_eq_ofNat (r : Field16) (b : Bool) : shiftIn r b = BitVec.ofNat 16 (2 * r.toNat + b.toNat) := by
  apply BitVec.eq_of_toNat_eq
  rw [shiftIn_toNat, BitVec.toNat_ofNat]

/-- The high byte is the quotient by 256 (R84). -/
theorem buttonCodeOf_toNat (k : Field16) : (buttonCodeOf k).toNat = k.toNat / 256 := by
  have := k.isLt
  simp [buttonCodeOf, BitVec.extractLsb'_toNat, Nat.shiftRight_eq_div_pow]
  omega

theorem datagramWord_toNat (a k : Field16) : (datagramWord a k).toNat = a.toNat * 65536 + k.toNat := by
  rw [show datagramWord a k = (a ++ k : BitVec 32) from rfl, BitVec.toNat_append,
    ← Nat.shiftLeft_add_eq_or_of_lt k.isLt, Nat.shiftLeft_eq]

/-! Classify -/

theorem config_wf_iff {c : Config} : c.wf = true ↔
    0 < c.tBit1 ∧ c.tBit1 ≤ c.tSync ∧ c.tSync ≤ c.tLong ∧ c.repeatTimeoutMs < 2 ^ 32 := by
  simp [Config.wf, and_assoc]

theorem classify_of_lt_tBit1 {c : Config} {d : Nat} (h : d < c.tBit1) : classify c d = .bit0 := by
  simp [classify, h]

theorem classify_of_lt_tSync {c : Config} {d : Nat} (h0 : c.tBit1 ≤ d) (h : d < c.tSync) :
    classify c d = .bit1 := by
  simp [classify, h, Nat.not_lt.mpr h0]

theorem classify_of_lt_tLong {c : Config} {d : Nat} (h0 : c.tBit1 ≤ d) (h1 : c.tSync ≤ d) (h : d < c.tLong) :
    classify c d = .repeatCode := by
  simp [classify, h, Nat.not_lt.mpr h0, Nat.not_lt.mpr h1]

theorem classify_of_ge_tLong {c : Config} {d : Nat} (h0 : c.tBit1 ≤ d) (h1 : c.tSync ≤ d) (h2 : c.tLong ≤ d) :
    classify c d = .long := by
  simp [classify, Nat.not_lt.mpr h0, Nat.not_lt.mpr h1, Nat.not_lt.mpr h2]

/-! Fold -/

theorem stuffs_iff {proto : Protocol} {b : Bool} {p : Nat} :
    stuffs proto b p = true ↔ proto = .vendorVariant ∧ b = true ∧ p ≤ 8 := by
  simp [stuffs, and_assoc]

theorem foldBit_of_overrun {b : Bool} {s : State} (h : 32 ≤ s.bitsReceived.toNat) :
    foldBit b s = ({ s with bitsReceived := 33 }, .incomplete) := by
  simp [foldBit, h]

theorem foldBit_of_stuff {b : Bool} {s : State} (h : stuffs s.proto b (s.bitsReceived.toNat + 1) = true) :
    foldBit b s = ({ s with hiWord := 1, bitsReceived := 9 }, .incomplete) := by
  obtain ⟨-, -, h8⟩ := stuffs_iff.mp h
  have h16 : s.bitsReceived.toNat + 1 ≤ 16 := by omega
  have h32 : ¬ 32 ≤ s.bitsReceived.toNat := by omega
  simp [foldBit, h, h32, h16, countBit]

theorem foldBit_of_high {b : Bool} {s : State} (h16 : s.bitsReceived.toNat + 1 ≤ 16)
    (h : stuffs s.proto b (s.bitsReceived.toNat + 1) = false) :
    foldBit b s = ({ s with hiWord := shiftIn s.hiWord b,
                            bitsReceived := BitVec.ofNat 6 (s.bitsReceived.toNat + 1) }, .incomplete) := by
  have h32 : ¬ 32 ≤ s.bitsReceived.toNat := by omega
  have hne : s.bitsReceived.toNat ≠ 31 := by omega
  simp [foldBit, h, h32, h16, countBit, hne]

theorem foldBit_of_low {b : Bool} {s : State} (h16 : 16 ≤ s.bitsReceived.toNat)
    (h31 : s.bitsReceived.toNat < 31) :
    foldBit b s = ({ s with loWord := shiftIn s.loWord b,
                            bitsReceived := BitVec.ofNat 6 (s.bitsReceived.toNat + 1) }, .incomplete) := by
  have h32 : ¬ 32 ≤ s.bitsReceived.toNat := by omega
  have h17 : ¬ s.bitsReceived.toNat + 1 ≤ 16 := by omega
  have hne : s.bitsReceived.toNat ≠ 31 := by omega
  simp [foldBit, h32, h17, countBit, hne]

theorem foldBit_of_last {b : Bool} {s : State} (h31 : s.bitsReceived.toNat = 31) :
    foldBit b s = ({ s with loWord := shiftIn s.loWord b, bitsReceived := 32, addressField := s.hiWord,
                            commandField := shiftIn s.loWord b }, .datagram) := by
  simp [foldBit, h31, countBit]

/-- Every case of Fold (R58): overrun, stuffing, an address bit, a command bit, the last bit. -/
theorem foldBit_cases (b : Bool) (s : State) :
    (32 ≤ s.bitsReceived.toNat ∧
      foldBit b s = ({ s with bitsReceived := 33 }, .incomplete)) ∨
    (stuffs s.proto b (s.bitsReceived.toNat + 1) = true ∧
      foldBit b s = ({ s with hiWord := 1, bitsReceived := 9 }, .incomplete)) ∨
    (s.bitsReceived.toNat + 1 ≤ 16 ∧ stuffs s.proto b (s.bitsReceived.toNat + 1) = false ∧
      foldBit b s = ({ s with hiWord := shiftIn s.hiWord b,
                              bitsReceived := BitVec.ofNat 6 (s.bitsReceived.toNat + 1) }, .incomplete)) ∨
    (16 ≤ s.bitsReceived.toNat ∧ s.bitsReceived.toNat < 31 ∧
      foldBit b s = ({ s with loWord := shiftIn s.loWord b,
                              bitsReceived := BitVec.ofNat 6 (s.bitsReceived.toNat + 1) }, .incomplete)) ∨
    (s.bitsReceived.toNat = 31 ∧
      foldBit b s = ({ s with loWord := shiftIn s.loWord b, bitsReceived := 32, addressField := s.hiWord,
                              commandField := shiftIn s.loWord b }, .datagram)) := by
  by_cases h32 : 32 ≤ s.bitsReceived.toNat
  · exact .inl ⟨h32, foldBit_of_overrun h32⟩
  · by_cases h31 : s.bitsReceived.toNat = 31
    · exact .inr (.inr (.inr (.inr ⟨h31, foldBit_of_last h31⟩)))
    · by_cases h16 : s.bitsReceived.toNat + 1 ≤ 16
      · by_cases hs : stuffs s.proto b (s.bitsReceived.toNat + 1) = true
        · exact .inr (.inl ⟨hs, foldBit_of_stuff hs⟩)
        · have hs' := Bool.eq_false_iff.mpr hs
          exact .inr (.inr (.inl ⟨h16, hs', foldBit_of_high h16 hs'⟩))
      · have h1 : 16 ≤ s.bitsReceived.toNat := by omega
        have h2 : s.bitsReceived.toNat < 31 := by omega
        exact .inr (.inr (.inr (.inl ⟨h1, h2, foldBit_of_low h1 h2⟩)))

/-- Fold's outcome depends on the counter alone (R61): DATAGRAM exactly when this bit makes it 32. -/
theorem foldBit_outcome (b : Bool) (s : State) :
    (foldBit b s).2 = if s.bitsReceived.toNat = 31 then .datagram else .incomplete := by
  rcases foldBit_cases b s with ⟨h, e⟩ | ⟨h, e⟩ | ⟨h, -, e⟩ | ⟨h, h', e⟩ | ⟨h, e⟩ <;> rw [e]
  · rw [if_neg (by omega)]
  · have h8 := (stuffs_iff.mp h).2.2
    rw [if_neg (by omega)]
  · rw [if_neg (by omega)]
  · rw [if_neg (by omega)]
  · rw [if_pos h]

/-! Derive -/

/-- Every case of the press and release part (R85): the code held already, a first press, a switch. -/
theorem pressCode_cases (code : Code) (s : State) :
    (s.activeValid = true ∧ s.activeCode = code ∧ pressCode code s = s) ∨
    (s.activeValid = false ∧
      pressCode code s = { s with eventOut := s.eventOut ++ [.pressed code],
                                  activeValid := true, activeCode := code }) ∨
    (s.activeValid = true ∧ s.activeCode ≠ code ∧
      pressCode code s = { s with eventOut := s.eventOut ++ [.released s.activeCode, .pressed code],
                                  activeValid := true, activeCode := code }) := by
  rcases hv : s.activeValid with _ | _
  · right; left; simp [pressCode, hv, State.emit]
  · by_cases hc : s.activeCode = code
    · left; simp [pressCode, hv, hc]
    · right; right; simp [pressCode, hv, hc, State.emit]

theorem deriveEvents_incomplete (s : State) : deriveEvents .incomplete s = some s := rfl

/-- Derive(REPEAT) writes the deadline only (R86). -/
theorem deriveEvents_repeat_eq_some {s t : State} : deriveEvents .repeatCode s = some t ↔
    ∃ d, nextDeadline s.cfg s.nowMs = some d ∧ t = { s with repeatDeadline := d } := by
  cases h : nextDeadline s.cfg s.nowMs <;> simp [deriveEvents, h, eq_comm]

/-- Derive(DATAGRAM) writes the deadline and the flag, announces the datagram, then presses its code (R85). -/
theorem deriveEvents_datagram_eq_some {s t : State} : deriveEvents .datagram s = some t ↔
    ∃ d, nextDeadline s.cfg s.nowMs = some d ∧
      t = pressCode (buttonCodeOf s.commandField)
        { s with repeatDeadline := d, hasUnread := true, eventOut := s.eventOut ++ [.datagramReady] } := by
  cases h : nextDeadline s.cfg s.nowMs <;> simp [deriveEvents, h, eq_comm, State.emit]

/-- Derive refuses exactly on time wrap-around (R85, D4). -/
theorem deriveEvents_eq_none {out : PulseOutcome} {s : State} : deriveEvents out s = none ↔
    out ≠ .incomplete ∧ 2 ^ 32 ≤ s.nowMs.toNat + s.cfg.repeatTimeoutMs := by
  rw [← nextDeadline_eq_none]
  cases out <;> cases h : nextDeadline s.cfg s.nowMs <;> simp [deriveEvents, h]

end Sys2Proof.Machine
end

