-- ==== Sys2Proof/Laws/Meanings.lean ====
section
/-! SUPPORT. Inversion lemmas: how each meaning, and the step, can answer. -/

namespace Sys2Proof.Machine

/-- MARK either latches or is ignored (R54). -/
theorem execMark_eq (us : Duration) (s : State) : execMark us s =
    .next (if s.protoBound then { s with markLatch := us, response := 0 } else s.respond ignoredResponse) := by
  unfold execMark; split <;> rfl

/-- CONNECT binds or is a no-op (R97). -/
theorem execConnect_eq (p : Protocol) (pin : Pin) (s : State) : execConnect p pin s =
    .next (if s.protoBound then { s with sessionValid := true, response := 0 }
      else { s with sessionValid := true, proto := p, capturePin := pin, protoBound := true, response := 1 }) := by
  unfold execConnect; split <;> rfl

/-- TICK releases, finds nothing to release, or is ignored (R87). -/
theorem execTick_eq (s : State) : execTick s =
    .next (if s.protoBound = false then s.respond ignoredResponse
      else if timedOut s then { s with eventOut := s.eventOut ++ [.released s.activeCode], bitsReceived := 0,
                                       activeValid := false, response := 1 }
      else { s with response := 0 }) := by
  unfold execTick
  rcases hb : s.protoBound with _ | _
  · rfl
  · simp only [if_true, Bool.true_eq_false, if_false]
    split
    · simp [releaseByTimeout, State.emit, State.clearCounter, State.respond, bitResponse, hb]
    · simp [State.respond, bitResponse, hb]

/-! The class of a SPACE under a good configuration, from its sum. -/

theorem spaceClass_of_long {us : Duration} {s : State} (hw : s.cfg.wf = true)
    (h : s.cfg.tLong ≤ s.markLatch.toNat + us.toNat) : spaceClass us s = .long := by
  obtain ⟨-, h1, h2, -⟩ := config_wf_iff.mp hw
  exact classify_of_ge_tLong (by unfold pulseSum; omega) (by unfold pulseSum; omega) h

theorem spaceClass_of_repeat {us : Duration} {s : State} (hw : s.cfg.wf = true)
    (h0 : s.cfg.tSync ≤ s.markLatch.toNat + us.toNat) (h : s.markLatch.toNat + us.toNat < s.cfg.tLong) :
    spaceClass us s = .repeatCode := by
  obtain ⟨-, h1, -, -⟩ := config_wf_iff.mp hw
  exact classify_of_lt_tLong (by unfold pulseSum; omega) (by unfold pulseSum; omega) h

theorem spaceClass_of_bit {us : Duration} {s : State} (h : s.markLatch.toNat + us.toNat < s.cfg.tSync) :
    spaceClass us s = if decide (s.cfg.tBit1 ≤ s.markLatch.toNat + us.toNat) then .bit1 else .bit0 := by
  by_cases hb : s.cfg.tBit1 ≤ s.markLatch.toNat + us.toNat
  · rw [if_pos (decide_eq_true hb)]; exact classify_of_lt_tSync hb h
  · rw [if_neg (by simpa using hb)]; exact classify_of_lt_tBit1 (by unfold pulseSum; omega)

/-- A data bit is folded (R53). -/
theorem decodeClass_bit (b : Bool) (s : State) : decodeClass (if b then .bit1 else .bit0) s = foldBit b s := by
  cases b <;> rfl

/-- A SPACE response read back as numbers (R47). -/
theorem spaceResponse_toNat (c : PulseClass) (out : PulseOutcome) :
    (spaceResponse c out).toNat = 4 * c.code.toNat + out.code.toNat := by
  cases c <;> cases out <;> decide

/-- How a SPACE can answer a next state (R55): ignored, or the state Derive leaves, with the SPACE response. -/
theorem execSpace_eq_next {us : Duration} {s t : State} : execSpace us s = .next t ↔
    (s.protoBound = false ∧ t = s.respond ignoredResponse) ∨
    (s.protoBound = true ∧ ∃ u,
      deriveEvents (decodeClass (spaceClass us s) s).2 (decodeClass (spaceClass us s) s).1 = some u ∧
      t = u.respond (spaceResponse (spaceClass us s) (decodeClass (spaceClass us s) s).2)) := by
  unfold execSpace
  cases s.protoBound
  · simp [eq_comm]
  · cases h : deriveEvents (decodeClass (spaceClass us s) s).2 (decodeClass (spaceClass us s) s).1 <;>
      simp [eq_comm]

/-- A SPACE's class and the state Decode leaves (R52, R53). -/
theorem decodeClass_cases (c : PulseClass) (s : State) :
    (∃ b, (c = if b then .bit1 else .bit0) ∧ decodeClass c s = foldBit b s) ∨
    (c = .repeatCode ∧ decodeClass c s = ({ s with bitsReceived := 0 }, .repeatCode)) ∨
    (c = .long ∧ decodeClass c s = ({ s with bitsReceived := 0 }, .incomplete)) := by
  cases c
  · exact .inl ⟨false, rfl, rfl⟩
  · exact .inl ⟨true, rfl, rfl⟩
  · exact .inr (.inl ⟨rfl, rfl⟩)
  · exact .inr (.inr ⟨rfl, rfl⟩)

/-- Decode writes the counter, the accumulators and the decoded fields, and nothing else. -/
theorem decodeClass_frame (c : PulseClass) (s : State) :
    ∃ n hi lo a k, (decodeClass c s).1 =
      { s with bitsReceived := n, hiWord := hi, loWord := lo, addressField := a, commandField := k } := by
  rcases decodeClass_cases c s with ⟨b, -, h⟩ | ⟨-, h⟩ | ⟨-, h⟩
  · rw [h]
    rcases foldBit_cases b s with ⟨-, h⟩ | ⟨-, h⟩ | ⟨-, -, h⟩ | ⟨-, -, h⟩ | ⟨-, h⟩ <;> rw [h]
    · exact ⟨_, s.hiWord, s.loWord, s.addressField, s.commandField, rfl⟩
    · exact ⟨_, _, s.loWord, s.addressField, s.commandField, rfl⟩
    · exact ⟨_, _, s.loWord, s.addressField, s.commandField, rfl⟩
    · exact ⟨_, s.hiWord, _, s.addressField, s.commandField, rfl⟩
    · exact ⟨_, s.hiWord, _, _, _, rfl⟩
  · rw [h]; exact ⟨_, s.hiWord, s.loWord, s.addressField, s.commandField, rfl⟩
  · rw [h]; exact ⟨_, s.hiWord, s.loWord, s.addressField, s.commandField, rfl⟩

/-- What a SPACE that is not ignored can do (R52, R55, R58, R85): count, shift, overrun, stuff or reset with no event;
refresh the deadline; or complete a frame. -/
theorem execSpace_cases {us : Duration} {s t : State} (hb : s.protoBound = true) (h : execSpace us s = .next t) :
    (∃ n hi lo r, t = { s with bitsReceived := n, hiWord := hi, loWord := lo, response := r } ∧
      (n.toNat ≤ 32 ∨ n = 33) ∧
      (32 ≤ n.toNat → 32 ≤ s.bitsReceived.toNat ∧ hi = s.hiWord ∧ lo = s.loWord)) ∨
    (∃ d r, t = { s with bitsReceived := 0, repeatDeadline := d, response := r } ∧
      d.toNat = s.nowMs.toNat + s.cfg.repeatTimeoutMs) ∨
    (∃ d lo r, s.bitsReceived.toNat = 31 ∧
      t = State.respond (pressCode (buttonCodeOf lo)
        { s with bitsReceived := 32, loWord := lo, addressField := s.hiWord, commandField := lo, repeatDeadline := d,
                 hasUnread := true, eventOut := s.eventOut ++ [.datagramReady] }) r ∧
      d.toNat = s.nowMs.toNat + s.cfg.repeatTimeoutMs) := by
  rcases execSpace_eq_next.mp h with ⟨h, -⟩ | ⟨-, u, hu, rfl⟩
  · simp [hb] at h
  · rcases decodeClass_cases (spaceClass us s) s with ⟨b, -, he⟩ | ⟨-, he⟩ | ⟨-, he⟩ <;> rw [he] at hu ⊢
    · rcases foldBit_cases b s with ⟨h0, e⟩ | ⟨h0, e⟩ | ⟨h0, -, e⟩ | ⟨h0, h', e⟩ | ⟨h0, e⟩ <;> rw [e] at hu ⊢
      · cases hu
        exact .inl ⟨33, s.hiWord, s.loWord, _, rfl, .inr rfl, fun _ => ⟨h0, rfl, rfl⟩⟩
      · cases hu
        exact .inl ⟨9, 1, s.loWord, _, rfl, by simp, by simp⟩
      · cases hu
        exact .inl ⟨_, _, _, _, rfl, by simp; omega, by simp; omega⟩
      · cases hu
        exact .inl ⟨_, _, _, _, rfl, by simp; omega, by simp; omega⟩
      · obtain ⟨d, hd, rfl⟩ := deriveEvents_datagram_eq_some.mp hu
        exact .inr (.inr ⟨d, _, _, h0, rfl, (nextDeadline_eq_some.mp hd).2⟩)
    · obtain ⟨d, hd, rfl⟩ := deriveEvents_repeat_eq_some.mp hu
      exact .inr (.inl ⟨d, _, rfl, (nextDeadline_eq_some.mp hd).2⟩)
    · cases hu
      exact .inl ⟨0, s.hiWord, s.loWord, _, rfl, by simp, by simp⟩

/-- An operation answers a next state, or SPACE's TimeWrap refusal. -/
theorem exec_next_or_timeWrap (i : Instr) (s : State) :
    (∃ t, exec i s = .next t) ∨ ((∃ us, i = .space us) ∧ exec i s = .refused .timeWrap) := by
  cases i with
  | connect p pin => exact .inl ⟨_, execConnect_eq p pin s⟩
  | mark us => exact .inl ⟨_, execMark_eq us s⟩
  | space us =>
    simp only [exec, execSpace]
    split
    · split
      · exact .inr ⟨⟨us, rfl⟩, rfl⟩
      · exact .inl ⟨_, rfl⟩
    · exact .inl ⟨_, rfl⟩
  | tick => exact .inl ⟨_, execTick_eq s⟩
  | rdButton => simp only [exec, execRdButton]; split <;> exact .inl ⟨_, rfl⟩
  | rdDatagram => exact .inl ⟨_, rfl⟩
  | rdRxflag => exact .inl ⟨_, rfl⟩

/-! What presenting a word leaves for the step to read. -/

@[simp] theorem State.presentWord_cfg (s : State) (w : CommandWord) : (s.presentWord w).cfg = s.cfg := rfl
@[simp] theorem State.presentWord_nowMs (s : State) (w : CommandWord) : (s.presentWord w).nowMs = s.nowMs := rfl
@[simp] theorem State.presentWord_inbox (s : State) (w : CommandWord) :
    (s.presentWord w).inbox = .command { word := w, now := s.nowMs } :: s.inbox := rfl

/-- A command that keeps the duties of R128, spelled out. -/
theorem Command.dutiful_iff {before : Time} {c : Command} : c.dutiful before = true ↔
    before.toNat ≤ c.now.toNat ∧ c.overlaps = false ∧ c.sinkAccepts = true := by
  simp [Command.dutiful, and_assoc]

/-- Of a next state, the sink check keeps or refuses it. -/
theorem checkSink_of_accepts {c : Command} {s : State} {out : Host.Outcome State Fault Refusal}
    (h : c.sinkAccepts = true) : checkSink c s out = out := by
  cases out <;> simp [checkSink, sinkBlocks, h]

/-- How a step can answer a next state: nothing presented, a reset, or a decoded command that kept the duties and
whose events the sink accepted. -/
theorem step_eq_next {s t : State} (h : step s = .next t) :
    s.cfg.wf = true ∧
    ((s.inbox = [] ∧ t = s) ∨
     (∃ rest, s.inbox = .reset :: rest ∧ t = s.applyReset rest) ∨
     (∃ c rest i, s.inbox = .command c :: rest ∧ c.overlaps = false ∧ s.nowMs.toNat ≤ c.now.toNat ∧
        decode c.word = .ok i ∧ exec i (s.accept c.now rest) = .next t ∧ sinkBlocks c s t = false)) := by
  unfold step stepUnderConfig at h
  split at h
  · rename_i hwf
    refine ⟨hwf, ?_⟩
    unfold runNext at h
    split at h
    · rename_i hi; cases h; exact .inl ⟨hi, rfl⟩
    · rename_i rest hi; cases h; exact .inr (.inl ⟨rest, hi, rfl⟩)
    · rename_i c rest hi
      refine .inr (.inr ⟨c, rest, ?_⟩)
      unfold runCommand at h
      split at h
      · cases h
      · rename_i hov
        split at h
        · cases h
        · rename_i hnow
          split at h
          · cases h
          · rename_i i hd
            unfold checkSink at h
            split at h
            · rename_i after he
              split at h
              · cases h
              · rename_i hs
                cases h
                exact ⟨i, hi, by simpa using hov, by omega, hd, he, by simpa using hs⟩
            · cases h
            · cases h
  · cases h

end Sys2Proof.Machine
end

