-- ==== Sys2Proof/Laws/PerInstr.lean ====
section
/-! SUPPORT. Facts about every instruction as syntax, one lemma per constructor. -/

namespace Sys2Proof.Laws.EncodedOpcode

/-- The encoded word carries the operation's opcode, which is not reserved (R43, R45), and sets no should-be-zero
bit (R44). -/
def Statement (i : Instr) : Prop :=
  opField (encode i) = i.opcode ∧ 1 ≤ i.opcode.toNat ∧ i.opcode.toNat ≤ 7 ∧
    operandField (encode i) &&& i.unusedOperandBits = 0

theorem connect (p : Protocol) (pin : Pin) : Statement (.connect p pin) := by
  refine ⟨by simp [encode], by simp [Instr.opcode], by simp [Instr.opcode], ?_⟩
  simp only [encode, operandField_packCommand, Instr.operand, Instr.unusedOperandBits]
  revert pin
  cases p <;> decide

theorem mark (us : Duration) : Statement (.mark us) := by
  refine ⟨by simp [encode], by simp [Instr.opcode], by simp [Instr.opcode], by simp [Instr.unusedOperandBits]⟩

theorem space (us : Duration) : Statement (.space us) := by
  refine ⟨by simp [encode], by simp [Instr.opcode], by simp [Instr.opcode], by simp [Instr.unusedOperandBits]⟩

theorem tick : Statement .tick := by unfold Statement; decide

theorem rdButton : Statement .rdButton := by unfold Statement; decide

theorem rdDatagram : Statement .rdDatagram := by unfold Statement; decide

theorem rdRxflag : Statement .rdRxflag := by unfold Statement; decide

end Sys2Proof.Laws.EncodedOpcode
end

