-- ==== Sys2Proof/Laws/Runs.lean ====
section
/-! SUPPORT. The outcome an operation hands to the event deriver, as runs of operations use it. -/

namespace Sys2Proof.Machine

/-- The outcome depends on neither the sampled time nor the inputs that wait (R53). -/
@[simp] theorem opOutcome_accept (i : Instr) (s : State) (now : Time) (rest : List Input) :
    opOutcome i (s.accept now rest) = opOutcome i s := by
  have e : ∀ c, (decodeClass c (s.accept now rest)).2 = (decodeClass c s).2 := by
    intro c; cases c <;> simp [decodeClass, foldBit_outcome] <;> rfl
  cases i <;> simp only [opOutcome]
  rw [State.accept_protoBound, e]; rfl

/-- Only an outcome that reaches Derive can be refused (R55, R85). -/
theorem opOutcome_of_execSpace_refused {us : Duration} {s : State} {r : Refusal} (h : exec (.space us) s = .refused r) :
    opOutcome (.space us) s ≠ .incomplete := by
  intro ho
  simp only [exec, execSpace] at h
  simp only [opOutcome] at ho
  split at h <;> rename_i hb
  · rw [if_pos hb] at ho
    rw [ho] at h
    cases h
  · cases h

/-- An INCOMPLETE outcome, of any operation but a TICK that times out, keeps the active command and emits nothing
(R56), bound or not. -/
theorem exec_of_incomplete {i : Instr} {s t : State} (h : exec i s = .next t) (ho : opOutcome i s = .incomplete)
    (ht : i = .tick → timedOut s = false) :
    t.activeValid = s.activeValid ∧ t.activeCode = s.activeCode ∧ t.eventOut = s.eventOut := by
  cases i with
  | connect p pin => rw [show exec (.connect p pin) s = _ from execConnect_eq p pin s] at h; cases h; split <;> simp
  | mark us => rw [show exec (.mark us) s = _ from execMark_eq us s] at h; cases h; split <;> simp
  | tick => rw [show exec .tick s = _ from execTick_eq s] at h; cases h; split <;> simp [ht rfl]
  | rdButton => simp only [exec, execRdButton] at h; split at h <;> cases h <;> simp
  | rdDatagram => cases h; simp
  | rdRxflag => cases h; simp
  | space us =>
    rcases execSpace_eq_next.mp h with ⟨-, rfl⟩ | ⟨hb, u, hu, rfl⟩
    · simp
    · simp only [opOutcome, hb, if_true] at ho
      rw [ho] at hu
      cases hu
      obtain ⟨n, hi, lo, a, k, hk⟩ := decodeClass_frame (spaceClass us s) s
      simp [hk]

end Sys2Proof.Machine
end

