-- ==== Sys2Proof/Tests/Slice0.lean ====
section
/-! SUPPORT. The model's own tests. Every expected result is copied from spec/ (95_test_vectors.md, the examples of the
rules, or a word laid out from 30_encoding.md); the source is named at each test. The second half shows, for every
statement with hypotheses, a concrete case that meets them. -/

namespace Sys2Proof.Tests

open Sys2Proof.Machine

/-- The next state of an answer, if it is one. -/
def nextOf (out : Host.Outcome State Fault Refusal) : Option State :=
  match out with
  | .next s => some s
  | .fault _ => none
  | .refused _ => none

/-- The refusal of an answer, if it is one. -/
def refusalOf (out : Host.Outcome State Fault Refusal) : Option Refusal :=
  match out with
  | .next _ => none
  | .fault _ => none
  | .refused r => some r

/-- A connected block with the mark of a data bit latched; the timeout is the vectors' 100. -/
def bound (proto : Protocol) (bits : BitVec 6) (hi lo : Field16) : State :=
  { State.reset with protoBound := true, proto := proto, sessionValid := true, markLatch := 600,
                     bitsReceived := bits, hiWord := hi, loWord := lo }

/-- A connected block that holds button 0x12 until the deadline 1100. -/
def holding (now : Time) (bits : BitVec 6) (lo : Field16) : State :=
  { bound .nec bits 0x00FF lo with
    activeValid := true, activeCode := 0x12, repeatDeadline := 1100, nowMs := now, commandField := 0x12ED }

/-- What a test compares of an answer: response, counter, and the event words. -/
abbrev brief (out : Host.Outcome State Fault Refusal) : Option (Response × BitVec 6 × List EventWord) :=
  (nextOf out).map (fun t => (t.response, t.bitsReceived, t.eventWords))

/-! WellFormed: each check refuses an ill-formed term. -/

/-- 95 L2-EN-8: T_BIT1 = 2700 and T_SYNC = 1600 is refused, the other way round is not. -/
theorem test_config_thresholds_out_of_order :
    ({ Config.vectors with tBit1 := 2700, tSync := 1600 } : Config).wf = false ∧
    ({ Config.vectors with tBit1 := 1600, tSync := 2700 } : Config).wf = true := by decide

/-- R6: T_BIT1 = 0. -/
theorem test_config_zero_threshold : ({ Config.vectors with tBit1 := 0 } : Config).wf = false := by decide

/-- R6: T_LONG below T_SYNC. -/
theorem test_config_long_below_sync : ({ Config.vectors with tLong := 2699 } : Config).wf = false := by decide

/-- R6: a timeout of 2^32. -/
theorem test_config_timeout_too_wide :
    ({ Config.vectors with repeatTimeoutMs := 4294967296 } : Config).wf = false := by decide

/-- R44, R45: a should-be-zero bit set, a reserved opcode, and a clean word. -/
theorem test_canonical_words :
    canonicalWord 0x1FFFFFFFE = false ∧ canonicalWord 0x800000000 = false ∧
    canonicalWord 0x100000301 = true := by decide

/-- R128 items 1, 3, 4: each broken duty is seen. -/
theorem test_dutiful_commands :
    (Command.mk 0 99 false true).dutiful 100 = false ∧ (Command.mk 0 100 true true).dutiful 100 = false ∧
    (Command.mk 0 100 false false).dutiful 100 = false ∧ (Command.mk 0 100 false true).dutiful 100 = true := by
  decide

/-- R128 item 1 along a schedule. -/
theorem test_schedule_time_decreases :
    scheduleWf 0 [.command { word := 0, now := 100 }, .command { word := 0, now := 99 }] = false ∧
    scheduleWf 0 [.command { word := 0, now := 100 }, .reset, .command { word := 0, now := 99 }] = true := by
  decide

/-! Decode: one word for each operation, its bits written out from R42 to R44 (op, then operand). -/

/-- op 0001, bits 31:16 zero, pin 00000011, bits 7:1 zero, protocol 1. -/
theorem test_decode_connect :
    decode 0b000100000000000000000000001100000001 = .ok (.connect .nec 3) := by decide

/-- op 0010, operand 600 = 1001011000. -/
theorem test_decode_mark : decode 0b001000000000000000000000001001011000 = .ok (.mark 600) := by decide

/-- op 0011, operand 1600 = 11001000000. -/
theorem test_decode_space : decode 0b001100000000000000000000011001000000 = .ok (.space 1600) := by decide

/-- op 0100. -/
theorem test_decode_tick : decode 0b010000000000000000000000000000000000 = .ok .tick := by decide

/-- op 0101. -/
theorem test_decode_rdButton : decode 0b010100000000000000000000000000000000 = .ok .rdButton := by decide

/-- op 0110. -/
theorem test_decode_rdDatagram : decode 0b011000000000000000000000000000000000 = .ok .rdDatagram := by decide

/-- op 0111. -/
theorem test_decode_rdRxflag : decode 0b011100000000000000000000000000000000 = .ok .rdRxflag := by decide

/-- 95 L2-EN-1 to L2-EN-4: reserved opcodes, and operands that are ignored. -/
theorem test_decode_reserved_and_ignored :
    decode 0x000000000 = .error (.reservedOpcode 0) ∧ decode 0x800000000 = .error (.reservedOpcode 8) ∧
    decode 0xF00000000 = .error (.reservedOpcode 0xF) ∧ decode 0x7FFFFFFFF = .ok .rdRxflag ∧
    decode 0x4FFFFFFFF = .ok .tick := by decide

/-- R50: the words the spec writes out for its expansions. -/
theorem test_encode_spec_words :
    [encode (.mark 600), encode (.space 600), encode (.space 1600), encode (.mark 9000), encode (.space 4500),
      encode (.space 2250), encode (.space 40000)] =
    [0x200000258, 0x300000258, 0x300000640, 0x200002328, 0x300001194, 0x3000008CA, 0x300009C40] := by decide

/-- The table's numbering: 36 bits of a 40-bit number; a number with a bit above them is no command word. -/
theorem test_decodeTableWord :
    decodeTableWord 40 0x300000640 = some (.space 1600) ∧ decodeTableWord 40 0x1000000000 = none := by decide

/-! Operations. -/

/-- 95 L1-5: CONNECT NEC, 3 from reset, then CONNECT VENDOR, 5. -/
theorem test_connect_first_wins :
    exec (.connect .nec 3) State.reset = .next { State.reset with
      protoBound := true, proto := .nec, capturePin := 3, sessionValid := true, response := 1 } ∧
    (nextOf (exec (.connect .vendorVariant 5) { bound .nec 0 0 0 with capturePin := 3 })).map
      (fun t => (t.response, t.proto, t.capturePin)) = some (0, .nec, 3) := ⟨rfl, by decide⟩

/-- 95 L2-SE-8: word 0x1FFFFFFFE binds VendorVariant and pin 0xFF, presented as the first command after reset. -/
theorem test_connect_word_from_reset :
    (nextOf (step (State.reset.withFetchWord 40 0x1FFFFFFFE))).map
      (fun t => (t.response, t.proto, t.capturePin, t.protoBound)) = some (1, .vendorVariant, 0xFF, true) := by
  decide

/-- R54's example: MARK 600 after CONNECT; and 95 L2-CL-10: ignored before it. -/
theorem test_mark :
    (nextOf (exec (.mark 600) { bound .nec 0 0 0 with markLatch := 0 })).map
      (fun t => (t.response, t.markLatch)) = some (0, 600) ∧
    (nextOf (exec (.mark 600) State.reset)).map (fun t => (t.response, t.markLatch)) = some (0x80, 0) := by decide

/-- R55's example and 95 L2-AS-8: the completing SPACE of a frame. -/
theorem test_space_completes :
    (nextOf (exec (.space 1600) { bound .nec 31 0x00FF 0x1276 with nowMs := 1000 })).map
      (fun t => (t.response, t.bitsReceived, t.addressField, t.commandField, t.eventWords)) =
      some (0x6, 32, 0x00FF, 0x24ED, [0x300, 0x124]) ∧
    (nextOf (exec (.space 1600) { bound .nec 31 0x00FF 0x1276 with nowMs := 1000 })).map
      (fun t => (t.hasUnread, t.activeValid, t.activeCode, t.repeatDeadline)) =
      some (true, true, 0x24, 1100) := by decide

/-- 95 L1-7: a frame of 0x30 while 0x12 is held, at now = 80. -/
theorem test_space_switches :
    (nextOf (exec (.space 1600) (holding 80 31 0x1867))).map
      (fun t => (t.response, t.commandField, t.eventWords, t.activeCode, t.repeatDeadline)) =
      some (0x6, 0x30CF, [0x300, 0x212, 0x130], 0x30, 180) := by decide

/-- 95 L2-EV-8, L2-EV-9: TICK at the deadline and one millisecond after. -/
theorem test_tick_deadline :
    brief (exec .tick (holding 1100 20 0)) = some (0x0, 20, []) ∧
    brief (exec .tick (holding 1101 20 0)) = some (0x1, 0, [0x212]) := by decide

/-- 95 L2-EV-12, L2-EV-11: TICK unbound, and with no button held. -/
theorem test_tick_idle :
    brief (exec .tick { State.reset with nowMs := 5000 }) = some (0x80, 0, []) ∧
    brief (exec .tick { bound .nec 0 0 0 with nowMs := 5000 }) = some (0x0, 0, []) := by decide

/-- 95 L2-SE-1, L2-SE-3, L2-SE-10. -/
theorem test_rdButton :
    exec .rdButton State.reset = .next { State.reset with response := 0x100 } ∧
    (nextOf (exec .rdButton (bound .nec 0 0 0))).map State.response = some 0x000 ∧
    (nextOf (exec .rdButton (holding 0 0 0))).map State.response = some 0x12 := ⟨rfl, by decide, by decide⟩

/-- 95 L2-SE-2, L2-SE-6. -/
theorem test_rdDatagram :
    exec .rdDatagram State.reset = .next { State.reset with sessionValid := true } ∧
    (nextOf (exec .rdDatagram { bound .nec 0 0 0 with
      addressField := 0x00FF, commandField := 0x12ED, hasUnread := true })).map
      (fun t => (t.response, t.hasUnread)) = some (0x00FF12ED, true) := ⟨rfl, by decide⟩

/-- 95 L2-SE-4, L2-SE-5. -/
theorem test_rdRxflag :
    exec .rdRxflag State.reset = .next { State.reset with sessionValid := true } ∧
    (nextOf (exec .rdRxflag { bound .nec 0 0 0 with hasUnread := true })).map
      (fun t => (t.response, t.hasUnread)) = some (1, false) := ⟨rfl, by decide⟩

/-! Shared operations. -/

/-- 95 L1-1, L2-CL-1 to L2-CL-9: the edges of the classes, and sums past 2^32. -/
theorem test_classify_edges :
    [0, 1599, 1600, 2699, 2700, 12499, 12500, pulseSum 0xFFFFFFFF 1, pulseSum 0xFFFFFFFF 0xFFFFFFFF].map
      (classify Config.vectors) =
    [.bit0, .bit0, .bit1, .bit1, .repeatCode, .repeatCode, .long, .long, .long] := by decide

/-- 95 L2-AS-1 to L2-AS-5: stuffing at positions 1 and 8, data at 9, a 0 at 1, and NEC. -/
theorem test_fold_stuffing :
    ((foldBit true (bound .vendorVariant 0 0xBEEF 0)).1.bitsReceived,
     (foldBit true (bound .vendorVariant 0 0xBEEF 0)).1.hiWord) = (9, 0x0001) ∧
    ((foldBit true (bound .vendorVariant 7 0x0003 0)).1.bitsReceived,
     (foldBit true (bound .vendorVariant 7 0x0003 0)).1.hiWord) = (9, 0x0001) ∧
    ((foldBit true (bound .vendorVariant 8 0x0003 0)).1.bitsReceived,
     (foldBit true (bound .vendorVariant 8 0x0003 0)).1.hiWord) = (9, 0x0007) ∧
    ((foldBit false (bound .vendorVariant 0 0xBEEF 0)).1.bitsReceived,
     (foldBit false (bound .vendorVariant 0 0xBEEF 0)).1.hiWord) = (1, 0x7DDE) ∧
    ((foldBit true (bound .nec 0 0xBEEF 0)).1.bitsReceived,
     (foldBit true (bound .nec 0 0xBEEF 0)).1.hiWord) = (1, 0x7DDF) := by decide

/-- 95 L2-AS-6, L2-AS-7, L2-AS-9, L2-AS-10: the two accumulators, and overrun. -/
theorem test_fold_accumulators_and_overrun :
    foldBit true (bound .nec 15 0x007F 0x1234) = (bound .nec 16 0x00FF 0x1234, .incomplete) ∧
    foldBit true (bound .nec 16 0x00FF 0x8001) = (bound .nec 17 0x00FF 0x0003, .incomplete) ∧
    foldBit true (bound .nec 32 0x00FF 0x24ED) = (bound .nec 33 0x00FF 0x24ED, .incomplete) ∧
    foldBit false (bound .nec 33 0x00FF 0x24ED) = (bound .nec 33 0x00FF 0x24ED, .incomplete) := by decide

/-- 95 L1-2, L2-EV-6, L2-EN-6: boundary cycles, and a LONG one at the end of time. -/
theorem test_space_boundary :
    brief (exec (.space 2700) { bound .nec 17 0 0 with markLatch := 0 }) = some (0x9, 0, []) ∧
    brief (exec (.space 12500) { bound .nec 17 0 0 with markLatch := 0, nowMs := 4294967295 }) =
      some (0xC, 0, []) := by decide

/-- 95 L2-EN-5: time wrap-around, and the last time before it. -/
theorem test_derive_timeWrap :
    refusalOf (exec (.space 2700) { bound .nec 0 0 0 with nowMs := 4294967196 }) = some .timeWrap ∧
    (nextOf (exec (.space 2700) { bound .nec 0 0 0 with nowMs := 4294967195 })).map State.repeatDeadline =
      some 4294967295 := by decide

/-- 95 L2-EN-1, L2-EN-7 and L2-EN-8 as steps: reserved opcode, decreasing time, bad configuration. -/
theorem test_step_refusals :
    refusalOf (step (State.reset.withFetchWord 40 0x800000000)) = some (.reservedOpcode 8) ∧
    refusalOf (step { State.reset with nowMs := 100, inbox := [.command { word := 0x400000000, now := 99 }] }) =
      some .timeDecreased ∧
    refusalOf (step { State.reset with cfg := { Config.vectors with tBit1 := 2700, tSync := 1600 } }) =
      some .badConfiguration := by decide

/-! The host's side. -/

/-- 95 L1-8: the three renderings. -/
theorem test_hex_rendering :
    hexOfDatagram 0x00FF12ED = "0x00FF12ED" ∧ hexOfDatagram 0x00D530CF = "0x00D530CF" ∧
    hexOfDatagram 0 = "0x00000000" := by decide

/-- R91: a specific and a wildcard handler, in registration order. -/
theorem test_dispatch :
    (((Registry.mk [] []).register .any .pressed 1).register (.specific 0x12) .pressed 2).dispatch (.pressed 0x12) =
      [1, 2] ∧
    (((Registry.mk [] []).register .any .pressed 1).register (.specific 0x12) .pressed 2).dispatch (.pressed 0x30) =
      [1] := by decide

/-- R102: a symbol of a table and one it lacks. -/
theorem test_buttonCode :
    buttonCode (Config.withOpen 100 20 [("OK", 0x12)]) "OK" = some 0x12 ∧
    buttonCode (Config.withOpen 100 20 [("OK", 0x12)]) "UP" = none := by decide

/-- R49 and 95 P1: lines of text. -/
theorem test_parseLine :
    parseLine "@0    CONNECT NEC, 3          ; 0x100000301".toList = some ⟨some 0, some (.instr (.connect .nec 3))⟩ ∧
    parseLine "@10   FRAME 0x00FF, 0x12ED".toList = some ⟨some 10, some (.frame 0x00FF 0x12ED)⟩ ∧
    parseLine "      GAP".toList = some ⟨none, some .gap⟩ ∧
    parseLine "    BITS 0b001, 3".toList = some ⟨none, some (.bits 1 3)⟩ ∧
    parseLine "SPACE".toList = none := by decide

/-- R49, R50: stamps carry over, and a pseudo-instruction expands. -/
theorem test_assemble :
    (assemble [⟨none, some (.instr (.connect .nec 0))⟩, ⟨some 118, some .rpt⟩, ⟨none, some (.instr .tick)⟩]).map
      (fun c => (c.word, c.now)) =
    [(0x100000001, 0), (0x200002328, 118), (0x3000008CA, 118), (0x400000000, 118)] := by decide


/-! Witnesses: for every statement of Certificates/Slice0/Obligations.lean with hypotheses, a concrete case that meets them
all, at the edges of each clause. `next` hypotheses are met by the state the model answers. -/

/-- The words of ConnectFirstBindingWins, MarkLatchesWhenBound, TickReleasesByTimeout and the reads, at both ends. -/
theorem witness_words :
    (0x100000000 : CommandWord).toNat / 2 ^ 32 = 1 ∧ (0x1FFFFFFFF : CommandWord).toNat / 2 ^ 32 = 1 ∧
    (0x200000000 : CommandWord).toNat / 2 ^ 32 = 2 ∧ (0x4FFFFFFFF : CommandWord).toNat / 2 ^ 32 = 4 ∧
    (0x500000000 : CommandWord).toNat / 2 ^ 32 = 5 ∧ (0x6FFFFFFFF : CommandWord).toNat / 2 ^ 32 = 6 ∧
    (0x700000000 : CommandWord).toNat / 2 ^ 32 = 7 := by decide

/-- ConnectFirstBindingWins, MarkLatchesWhenBound, SpaceIgnoredBeforeConnect, RdButtonReturnsLastCode. -/
theorem witness_bound_and_unbound :
    State.reset.protoBound = false ∧ (bound .nec 0 0 0).protoBound = true ∧
    State.reset.sessionValid = false ∧ (bound .nec 0 0 0).sessionValid = true := by decide

/-- TickReleasesByTimeout: past the deadline, at it, and with no button held. -/
theorem witness_TickReleasesByTimeout :
    ((holding 1101 20 0).protoBound = true ∧ (holding 1101 20 0).activeValid = true ∧
      (holding 1101 20 0).repeatDeadline.toNat < (holding 1101 20 0).nowMs.toNat) ∧
    (holding 1100 20 0).nowMs.toNat ≤ (holding 1100 20 0).repeatDeadline.toNat ∧
    (bound .nec 0 0 0).activeValid = false := by decide

/-- SpaceBoundaryResetsCounter: sums 12500, 2700 and 12499, the last at the latest time. -/
theorem witness_SpaceBoundaryResetsCounter :
    (bound .nec 17 0 0).cfg.wf = true ∧
    (bound .nec 17 0 0).cfg.tLong ≤ (bound .nec 17 0 0).markLatch.toNat + (11900 : Duration).toNat ∧
    (bound .nec 17 0 0).cfg.tSync ≤ (bound .nec 17 0 0).markLatch.toNat + (2100 : Duration).toNat ∧
    (bound .nec 17 0 0).markLatch.toNat + (11899 : Duration).toNat < (bound .nec 17 0 0).cfg.tLong ∧
    (4294967195 : Time).toNat + (bound .nec 17 0 0).cfg.repeatTimeoutMs < 2 ^ 32 := by decide

/-- SpaceDataBitShiftsIn: sum 2699 (a 1) at position 31, sum 1599 (a 0) at position 8 of a vendor frame. -/
theorem witness_SpaceDataBitShiftsIn :
    ((bound .nec 30 0 0).markLatch.toNat + (2099 : Duration).toNat < (bound .nec 30 0 0).cfg.tSync ∧
      true = decide ((bound .nec 30 0 0).cfg.tBit1 ≤ (bound .nec 30 0 0).markLatch.toNat + (2099 : Duration).toNat) ∧
      (bound .nec 30 0 0).bitsReceived.toNat < 31 ∧
      ¬ ((bound .nec 30 0 0).proto = .vendorVariant ∧ true = true ∧ (bound .nec 30 0 0).bitsReceived.toNat < 8)) ∧
    (false = decide ((bound .vendorVariant 7 0 0).cfg.tBit1 ≤
        (bound .vendorVariant 7 0 0).markLatch.toNat + (999 : Duration).toNat) ∧
      ¬ ((bound .vendorVariant 7 0 0).proto = .vendorVariant ∧ false = true ∧
        (bound .vendorVariant 7 0 0).bitsReceived.toNat < 8)) := by decide

/-- SpaceStuffingRestartsFrame: sums 1600 and 2699 at position 8. -/
theorem witness_SpaceStuffingRestartsFrame :
    (bound .vendorVariant 7 0 0).protoBound = true ∧ (bound .vendorVariant 7 0 0).proto = .vendorVariant ∧
    (bound .vendorVariant 7 0 0).cfg.tBit1 ≤ (bound .vendorVariant 7 0 0).markLatch.toNat + (1000 : Duration).toNat ∧
    (bound .vendorVariant 7 0 0).markLatch.toNat + (2099 : Duration).toNat < (bound .vendorVariant 7 0 0).cfg.tSync ∧
    (bound .vendorVariant 7 0 0).bitsReceived.toNat < 8 := by decide

/-- SpaceOverrunBitIgnored: the 33rd bit, and one after it. -/
theorem witness_SpaceOverrunBitIgnored :
    32 ≤ (bound .nec 32 0 0).bitsReceived.toNat ∧ 32 ≤ (bound .nec 33 0 0).bitsReceived.toNat ∧
    (bound .nec 33 0 0).markLatch.toNat + (2099 : Duration).toNat < (bound .nec 33 0 0).cfg.tSync := by decide

/-- SpaceCompletesFrame: no button held, the same one and another one; the bit is a 1. -/
theorem witness_SpaceCompletesFrame :
    ((bound .nec 31 0x00FF 0x1276).cfg.wf = true ∧ (bound .nec 31 0x00FF 0x1276).bitsReceived.toNat = 31 ∧
      true = decide ((bound .nec 31 0x00FF 0x1276).cfg.tBit1 ≤
        (bound .nec 31 0x00FF 0x1276).markLatch.toNat + (1600 : Duration).toNat) ∧
      (bound .nec 31 0x00FF 0x1276).markLatch.toNat + (1600 : Duration).toNat <
        (bound .nec 31 0x00FF 0x1276).cfg.tSync ∧
      (0x24 : Code).toNat = (appendBit (bound .nec 31 0x00FF 0x1276).loWord true).toNat / 256 ∧
      (bound .nec 31 0x00FF 0x1276).activeValid = false) ∧
    ((0x12 : Code).toNat = (appendBit (holding 80 31 0x0976).loWord true).toNat / 256 ∧
      (holding 80 31 0x0976).activeCode = 0x12) ∧
    ((0x30 : Code).toNat = (appendBit (holding 80 31 0x1867).loWord true).toNat / 256 ∧
      (holding 80 31 0x1867).nowMs.toNat + (holding 80 31 0x1867).cfg.repeatTimeoutMs < 2 ^ 32) := by decide

/-- SpaceRefusedExactlyOnTimeWrap has only the configuration as hypothesis; both disjuncts are met. -/
theorem witness_SpaceRefusedExactlyOnTimeWrap :
    (bound .nec 31 0 0).cfg.wf = true ∧
    (nextOf (exec (.space 2099) { bound .nec 31 0 0 with nowMs := 4294967196 })).isNone = true ∧
    (nextOf (exec (.space 2100) { bound .nec 0 0 0 with nowMs := 4294967196 })).isNone = true := by decide

/-- SpaceReportsClassOfSum and IncompleteIsNonEvent: a SPACE of each class goes on; the last answer is INCOMPLETE. -/
theorem witness_SpaceReportsClassOfSum_IncompleteIsNonEvent :
    ∃ t u v w, exec (.space 999) (bound .nec 0 0 0) = .next t ∧ exec (.space 2099) (bound .nec 0 0 0) = .next u ∧
      exec (.space 2100) (bound .nec 0 0 0) = .next v ∧ exec (.space 11900) (bound .nec 0 0 0) = .next w ∧
      (bound .nec 0 0 0).cfg.wf = true ∧ t.response.toNat % 4 = 0 ∧ w.response.toNat % 4 = 0 :=
  ⟨_, _, _, _, rfl, rfl, rfl, rfl, by decide, by decide, by decide⟩

/-- LongDurationNeverAliases: a long mark with the longest space. -/
theorem witness_LongDurationNeverAliases :
    (bound .nec 0 0 0).cfg.wf = true ∧ (bound .nec 0 0 0).cfg.tLong ≤ (0xFFFFFFFF : Duration).toNat ∧
    ({ bound .nec 0 0 0 with markLatch := 12500 } : State).cfg.tLong ≤ (12500 : Duration).toNat := by decide

/-- OwnershipOfWrites: an operation for each clause, an unbound SPACE and a boundary SPACE among them. -/
theorem witness_OwnershipOfWrites :
    ∃ t u v w, exec .tick (holding 1101 20 0) = .next t ∧ exec .rdRxflag (holding 0 0 0) = .next u ∧
      exec (.space 600) State.reset = .next v ∧ State.reset.protoBound = false ∧
      exec (.space 2100) (bound .nec 5 0 0) = .next w ∧
      (bound .nec 5 0 0).cfg.tSync ≤ (bound .nec 5 0 0).markLatch.toNat + (2100 : Duration).toNat :=
  ⟨_, _, _, _, rfl, rfl, rfl, by decide, rfl, by decide⟩

/-- BindingImmutable, SessionCreatedNeverDestroyed, MarkLatchSurvivesAllButMark, ConfigurationFixed,
EventOutputAppends: an operation and a step that go on from a bound state. -/
theorem witness_frames_of_operations_and_steps :
    ∃ t u, exec .tick (holding 1101 20 0) = .next t ∧
      step ((holding 1101 20 0).withFetchWord 40 0x400000000) = .next u ∧
      (holding 1101 20 0).protoBound = true ∧ (holding 1101 20 0).sessionValid = true ∧
      ((holding 1101 20 0).withFetchWord 40 0x400000000).inbox.head? ≠ some .reset :=
  ⟨_, _, rfl, rfl, by decide, by decide, by decide⟩

/-- OutputsNotRead: an input waits; an operation that goes on. -/
theorem witness_OutputsNotRead :
    (State.reset.withFetchWord 40 0x500000000).inbox ≠ [] ∧ ∃ t, exec .tick (holding 1101 20 0) = .next t :=
  ⟨by decide, _, rfl⟩

/-- EncodeOfDecode and the second half of ReservedRefusedUnusedBitsIgnored: a canonical word and one that is not. -/
theorem witness_EncodeOfDecode :
    decode 0x100000301 = .ok (.connect .nec 3) ∧ canonicalWord 0x100000301 = true ∧
    decode 0x1FFFFFFFE = .ok (.connect .vendorVariant 0xFF) ∧
    ((0x1FFFFFFFE : CommandWord) ^^^ 0x10000FF00) &&&
      ~~~((0 : BitVec 4) ++ (Instr.connect .vendorVariant 0xFF).unusedOperandBits) = 0 := by decide

/-- ReservedRefusedUnusedBitsIgnored: the words 0, 8 and 15 at the edges of both ranges. -/
theorem witness_ReservedRefused :
    State.reset.cfg.wf = true ∧ (State.reset.withFetchWord 40 0x8FFFFFFFF).inbox = [.command { word := 0x8FFFFFFFF, now := 0 }] ∧
    (Command.mk 0x8FFFFFFFF 0 false true).dutiful 0 = true ∧
    (0x0FFFFFFFF : CommandWord).toNat / 2 ^ 32 = 0 ∧ 8 ≤ (0x8FFFFFFFF : CommandWord).toNat / 2 ^ 32 ∧
    8 ≤ (0xF00000000 : CommandWord).toNat / 2 ^ 32 := by decide

/-- StepRunsDecodedInstruction: a waiting command with another behind it, and a table word. -/
theorem witness_StepRunsDecodedInstruction :
    (bound .nec 0 0 0).cfg.wf = true ∧
    ({ bound .nec 0 0 0 with inbox := [.command { word := 0x200000258, now := 7 }, .reset] } : State).inbox =
      .command { word := 0x200000258, now := 7 } :: [.reset] ∧
    (Command.mk 0x200000258 7 false true).dutiful 0 = true ∧ decode 0x200000258 = .ok (.mark 600) ∧
    decodeTableWord 40 0x200000258 = some (.mark 600) := by decide

/-- StepHoldsStateWhenIdle and StepResetsRecord. -/
theorem witness_idle_and_reset :
    (holding 5 3 1).cfg.wf = true ∧ (holding 5 3 1).inbox = [] ∧
    ({ holding 5 3 1 with inbox := [.reset] } : State).inbox = .reset :: [] := by decide

/-- StepRefusalCauses: a step for each cause but the reserved word, which test_step_refusals has. -/
theorem witness_StepRefusalCauses :
    refusalOf (step { State.reset with inbox := [.command { word := 0x400000000, now := 0, overlaps := true }] }) =
      some .overlappingOperation ∧
    refusalOf (step { State.reset with nowMs := 1, inbox := [.command { word := 0x400000000, now := 0 }] }) =
      some .timeDecreased ∧
    refusalOf (step { bound .nec 0 0 0 with inbox := [.command { word := 0x300000834, now := 4294967196 }] }) =
      some .timeWrap ∧
    refusalOf (step { holding 0 0 0 with
      inbox := [.command { word := 0x400000000, now := 1101, sinkAccepts := false }] }) = some .sinkDoesNotAccept := by
  decide

/-- A bound block whose schedule has a LONG SPACE and a TICK at the end of time (95 L2-EN-6), a reset, and a CONNECT. -/
def dutifulState : State :=
  { bound .nec 17 0 0 with inbox := [.command { word := 0x300002E7C, now := 4294967295 },
                                     .command { word := 0x400000000, now := 4294967295 }, .reset,
                                     .command { word := 0x100000001, now := 0 }] }

/-- DutifulScheduleNeverStops: every state along the run of `dutifulState` meets the premises, and a SPACE at the last
time before wrap-around does; one millisecond later it does not. -/
theorem witness_DutifulScheduleNeverStops :
    dutifulState.cfg.wf = true ∧ scheduleWf dutifulState.nowMs dutifulState.inbox = true ∧
    (decode 0x300002E7C = .ok (.space 11900) ∧ decode 0x400000000 = .ok .tick ∧
      decode 0x100000001 = .ok (.connect .nec 0)) ∧
    (∀ (j : Nat) (t : State), j < 5 → Host.Core.run Sys2Proof.core j dutifulState = .next t → t.deadlineFits = true) ∧
    ({ bound .nec 0 0 0 with inbox := [.command { word := 0x300000834, now := 4294967195 }] } : State).deadlineFits = true ∧
    ({ bound .nec 0 0 0 with inbox := [.command { word := 0x300000834, now := 4294967196 }] } : State).deadlineFits =
      false := by
  refine ⟨by decide, by decide, by decide, ?_, by decide, by decide⟩
  intro j t hj h
  interval_cases j <;> exact Host.Outcome.next.inj h ▸ (by decide)

/-- TimeNeverDecreases: a command that goes on, and an idle step. -/
theorem witness_TimeNeverDecreases :
    ∃ t u, step { State.reset with inbox := [.command { word := 0x500000000, now := 9 }] } = .next t ∧ t.nowMs = 9 ∧
      step State.reset = .next u :=
  ⟨_, _, rfl, rfl, rfl⟩

/-- StepKeepsRecordInvariants: a held button and a step that releases it. -/
theorem witness_StepKeepsRecordInvariants :
    (holding 1101 20 0).RecordInv ∧ ∃ t, step ((holding 1101 20 0).withFetchWord 40 0x400000000) = .next t :=
  ⟨⟨show (20 : BitVec 6).toNat ≤ overrunCount by decide, fun _ => by decide, fun h => absurd h (by decide),
    fun _ => by decide⟩, _, rfl⟩

/-- StepKeepsFrameInvariants: a finished frame whose button is held, and the overrun bit after it. -/
theorem witness_StepKeepsFrameInvariants :
    ({ holding 1000 32 0x12ED with addressField := 0x00FF } : State).FrameInv ∧
    ∃ t, step ({ holding 1000 32 0x12ED with addressField := 0x00FF }.withFetchWord 40 0x300000258) = .next t :=
  ⟨⟨fun _ => by decide, fun _ => by decide⟩, _, rfl⟩

/-- StepKeepsEventsMatchingHeld: a press on the output, and the step that releases it. -/
theorem witness_StepKeepsEventsMatchingHeld :
    ({ holding 1101 20 0 with eventOut := [.datagramReady, .pressed 0x12] } : State).EventsMatchHeld ∧
    ∃ t, step ({ holding 1101 20 0 with eventOut := [.datagramReady, .pressed 0x12] }.withFetchWord 40 0x400000000) =
      .next t :=
  ⟨show replayEvents _ = _ by decide, _, rfl⟩

/-- DeadlineWrittenFromNow: a hold that starts, and a repeat code that moves the deadline of none. -/
theorem witness_DeadlineWrittenFromNow :
    (nextOf (exec (.space 1600) { bound .nec 31 0x00FF 0x1276 with nowMs := 1000 })).map State.activeValid = some true ∧
    (bound .nec 31 0x00FF 0x1276).activeValid = false ∧
    (nextOf (exec (.space 2100) (bound .nec 0 0 0))).map (fun t => t.repeatDeadline) ≠
      some (bound .nec 0 0 0).repeatDeadline := by decide

/-- FrameHoldsItsBits, ExactlyOneCompletion: 32 bits, under NEC and as a vendor frame whose first eight are 0. -/
theorem witness_FrameHoldsItsBits :
    (bound .nec 0 0xBEEF 0xBEEF).bitsReceived = 0 ∧ (List.replicate 32 true).length = 32 ∧
    (bound .nec 0 0xBEEF 0xBEEF).proto = .nec ∧
    ((List.replicate 8 false ++ List.replicate 24 true).length = 32 ∧
      ∀ b ∈ (List.replicate 8 false ++ List.replicate 24 true).take 8, b = false) := by decide

/-- StuffedFrameHoldsItsBits, ExactlyOneCompletion: the first 1 at positions 1 and 8. -/
theorem witness_StuffedFrameHoldsItsBits :
    (bound .vendorVariant 0 0xBEEF 0xBEEF).bitsReceived = 0 ∧
    (bound .vendorVariant 0 0xBEEF 0xBEEF).proto = .vendorVariant ∧ (0 : Nat) < 8 ∧ (7 : Nat) < 8 ∧
    (List.replicate 23 true).length = 23 := by decide

/-- OverrunUntilCounterReset. -/
theorem witness_OverrunUntilCounterReset :
    32 ≤ (bound .nec 32 0 0).bitsReceived.toNat ∧ [true] ≠ ([] : List Bool) := by decide

/-- FramePseudoDeliversFields: any address under NEC, 0x00FF under the vendor variant, at the latest time. -/
theorem witness_FramePseudoDeliversFields :
    (bound .nec 12 0 0).protoBound = true ∧ (bound .nec 12 0 0).cfg = Config.withOpen 100 20 [] ∧
    (4294967195 : Time).toNat + 100 < 2 ^ 32 ∧ (bound .nec 12 0 0).proto = .nec ∧ (0x00FF : Field16).toNat < 256 := by
  decide

/-- FirstLateTickReleases: a MARK, a data bit and a TICK at the deadline come before the late TICK. -/
theorem witness_FirstLateTickReleases :
    (holding 1000 20 0).protoBound = true ∧ (holding 1000 20 0).activeValid = true ∧
    quietRun [(.mark 600, 1010), (.space 600, 1011), (.tick, 1100)] (holding 1000 20 0) = true ∧
    (holding 1000 20 0).repeatDeadline.toNat < (1101 : Time).toNat := by decide

/-- HeldButtonPressedOnce from reset: the run connects on the way to a datagram of 32 ones. -/
theorem witness_HeldButtonPressedOnce_from_reset :
    State.reset.activeValid = false ∧
    heldRun 0xFF ((.tick, 5) :: (.connect .nec 0, 6) :: List.replicate 32 (.space 1600, 10)) State.reset = true ∧
    0 < datagramCount ((.tick, 5) :: (.connect .nec 0, 6) :: List.replicate 32 (.space 1600, 10)) State.reset := by
  decide

/-- HeldButtonPressedOnce: a datagram, a repeat and a TICK. -/
theorem witness_HeldButtonPressedOnce :
    (bound .nec 31 0x00FF 0x1276).activeValid = false ∧
    heldRun 0x24 [(.space 1600, 10), (.space 2100, 50), (.tick, 150)] (bound .nec 31 0x00FF 0x1276) = true ∧
    0 < datagramCount [(.space 1600, 10), (.space 2100, 50), (.tick, 150)] (bound .nec 31 0x00FF 0x1276) := by decide

/-- PressAgainAfterTimeout, up to the release: a repeat code after it goes on and is no datagram. -/
theorem witness_PressAgainAfterTimeout :
    ∃ t v, exec .tick (holding 1101 20 0) = .next t ∧ runTimed [(.space 2100, 1102)] t = .next v ∧
      datagramCount [(.space 2100, 1102)] t = 0 ∧
      (holding 1101 20 0).repeatDeadline.toNat < (holding 1101 20 0).nowMs.toNat :=
  ⟨_, _, rfl, rfl, by decide, by decide⟩

/-- PressAgainAfterTimeout, the press: after the release, 31 bits of the same command word and then its last. -/
theorem witness_PressAgainAfterTimeout_datagram :
    ∃ t v u, exec .tick (holding 1101 20 0) = .next t ∧
      runTimed (List.replicate 16 (.space 600, 1102) ++
        [(.space 600, 1102), (.space 600, 1102), (.space 600, 1102), (.space 1600, 1102), (.space 600, 1102),
         (.space 600, 1102), (.space 1600, 1102)] ++ List.replicate 8 (.space 600, 1102)) t = .next v ∧
      datagramCount (List.replicate 16 (.space 600, 1102) ++
        [(.space 600, 1102), (.space 600, 1102), (.space 600, 1102), (.space 1600, 1102), (.space 600, 1102),
         (.space 600, 1102), (.space 1600, 1102)] ++ List.replicate 8 (.space 600, 1102)) t = 0 ∧
      execTimed (.space 600, 1103) v = .next u ∧ opOutcome (.space 600) v = .datagram ∧
      u.commandField.toNat / 256 = (holding 1101 20 0).activeCode.toNat :=
  ⟨_, _, _, rfl, rfl, by decide, rfl, by decide, by decide⟩

/-- SpaceTickRaceBothOrders: the 32nd bit, a 1, of a frame of the held code 0x12, after the deadline. -/
theorem witness_SpaceTickRaceBothOrders :
    (holding 1101 31 0x0976).cfg.wf = true ∧ (holding 1101 31 0x0976).activeValid = true ∧
    (holding 1101 31 0x0976).repeatDeadline.toNat < (holding 1101 31 0x0976).nowMs.toNat ∧
    (holding 1101 31 0x0976).bitsReceived.toNat = 31 ∧
    (holding 1101 31 0x0976).markLatch.toNat + (1600 : Duration).toNat < (holding 1101 31 0x0976).cfg.tSync ∧
    true = decide ((holding 1101 31 0x0976).cfg.tBit1 ≤
      (holding 1101 31 0x0976).markLatch.toNat + (1600 : Duration).toNat) ∧
    (appendBit (holding 1101 31 0x0976).loWord true).toNat / 256 = (holding 1101 31 0x0976).activeCode.toNat ∧
    (holding 1101 31 0x0976).nowMs.toNat + (holding 1101 31 0x0976).cfg.repeatTimeoutMs < 2 ^ 32 := by decide

/-- TimeoutLosesArrivingFrame: the last 31 bits of a frame arrive after the release. -/
theorem witness_TimeoutLosesArrivingFrame :
    ∃ t, exec .tick (holding 1101 1 0) = .next t ∧ (List.replicate 31 true).length < 32 ∧
      (holding 1101 1 0).proto = .nec ∧
      (holding 1101 1 0).repeatDeadline.toNat < (holding 1101 1 0).nowMs.toNat :=
  ⟨_, rfl, by decide, by decide, by decide⟩

/-- AnyOperationFirstAfterReset (an operation other than CONNECT) and HexRenderingDigits (both ends of the digits). -/
theorem witness_AnyOperationFirstAfterReset_HexRenderingDigits :
    (∀ p pin, Instr.rdRxflag ≠ .connect p pin) ∧ (0 : Nat) < 8 ∧ (7 : Nat) < 8 :=
  ⟨fun _ _ => Instr.noConfusion, by decide, by decide⟩

end Sys2Proof.Tests
end

section
/-! The step as a cascade of refusals around exec: one equation per case, and what a refusal of a step under a good
configuration can say. -/

namespace Sys2Proof.Machine

/-! The configuration -/

theorem step_of_wf {s : State} (h : s.cfg.wf = true) : step s = runNext s := if_pos h

theorem step_of_not_wf {s : State} (h : ¬ s.cfg.wf = true) : step s = .refused .badConfiguration := if_neg h

/-- This hardware's thresholds meet their bounds, so only the timeout can be out of range (R5, R6). -/
theorem config_withOpen_wf_iff (timeout period : Nat) (table : List (String × Nat)) :
    (Config.withOpen timeout period table).wf = true ↔ timeout < 2 ^ 32 := by
  simp [config_wf_iff, Config.withOpen]

/-! One command -/

theorem runNext_of_command {s : State} {c : Command} {rest : List Input} (h : s.inbox = .command c :: rest) :
    runNext s = runCommand c rest s := by
  simp only [runNext, h]

/-- A command that neither overlaps nor lies back in time performs the operation its word decodes to, held against
the sink. -/
theorem runCommand_of_decode {c : Command} {rest : List Input} {s : State} {i : Instr} (hov : c.overlaps = false)
    (hnow : s.nowMs.toNat ≤ c.now.toNat) (hd : decode c.word = .ok i) :
    runCommand c rest s = checkSink c s (exec i (s.accept c.now rest)) := by
  simp [runCommand, hov, Nat.not_lt.mpr hnow, hd]

/-- A step of a dutiful command is its operation at the sampled time (R9). -/
theorem step_of_dutiful {s : State} {c : Command} {rest : List Input} {i : Instr} (hwf : s.cfg.wf = true)
    (hin : s.inbox = .command c :: rest) (hc : c.dutiful s.nowMs = true) (hd : decode c.word = .ok i) :
    step s = exec i (s.accept c.now rest) := by
  obtain ⟨hnow, hov, hsink⟩ := Command.dutiful_iff.mp hc
  rw [step_of_wf hwf, runNext_of_command hin, runCommand_of_decode hov hnow hd, checkSink_of_accepts hsink]

/-! A placed word -/

/-- The table's decoder is the decoder on the command word among the table bits. -/
theorem decodeTableWord_eq_some {nbits w : Nat} {i : Instr} : decodeTableWord nbits w = some i ↔
    ∃ word, commandWordOf nbits w = some word ∧ decode word = .ok i := by
  unfold decodeTableWord
  cases commandWordOf nbits w with
  | none => simp
  | some word => cases h : decode word <;> simp [h]

theorem State.withFetchWord_of_command {s : State} {nbits w : Nat} {word : CommandWord}
    (h : commandWordOf nbits w = some word) : s.withFetchWord nbits w = s.presentWord word := by
  simp only [State.withFetchWord, State.presentTableWord, h]

/-- The environment presents a word at the time of the latest operation, keeping its duties (R128). -/
theorem Command.dutiful_presented (w : CommandWord) (now : Time) :
    ({ word := w, now := now } : Command).dutiful now = true :=
  Command.dutiful_iff.mpr ⟨Nat.le_refl _, rfl, rfl⟩

/-- Performing a presented word at once leaves no trace of its having waited. -/
theorem State.accept_presentWord (s : State) (w : CommandWord) :
    (s.presentWord w).accept s.nowMs s.inbox = { s with response := 0 } := rfl

theorem step_presentWord {s : State} {w : CommandWord} {i : Instr} (hwf : s.cfg.wf = true)
    (hd : decode w = .ok i) : step (s.presentWord w) = exec i { s with response := 0 } := by
  rw [step_of_dutiful (s := s.presentWord w) hwf rfl (Command.dutiful_presented w s.nowMs) hd,
    State.accept_presentWord]

/-! Refusals -/

/-- The sink check adds one refusal of its own to those of the operation (R128 item 4). -/
theorem checkSink_eq_refused {c : Command} {s : State} {out : Host.Outcome State Fault Refusal} {r : Refusal}
    (h : checkSink c s out = .refused r) :
    out = .refused r ∨ (r = .sinkDoesNotAccept ∧ ∃ t, out = .next t ∧ sinkBlocks c s t = true) := by
  cases out with
  | next t =>
    simp only [checkSink] at h
    split at h
    · rename_i hs
      cases h
      exact .inr ⟨rfl, t, rfl, hs⟩
    · cases h
  | fault f => cases f
  | refused q => exact .inl h

/-- Every way a command can be refused, with its cause (R45, R85, R112, R128). -/
theorem runCommand_eq_refused {c : Command} {rest : List Input} {s : State} {r : Refusal}
    (h : runCommand c rest s = .refused r) :
    (c.overlaps = true ∧ r = .overlappingOperation) ∨
    (c.overlaps = false ∧ c.now.toNat < s.nowMs.toNat ∧ r = .timeDecreased) ∨
    (c.overlaps = false ∧ s.nowMs.toNat ≤ c.now.toNat ∧
      ((∃ op, decode c.word = .error (.reservedOpcode op) ∧ r = .reservedOpcode op) ∨
       ∃ i, decode c.word = .ok i ∧
        (((∃ us, i = .space us) ∧ exec i (s.accept c.now rest) = .refused .timeWrap ∧ r = .timeWrap) ∨
         ∃ t, exec i (s.accept c.now rest) = .next t ∧ sinkBlocks c s t = true ∧ r = .sinkDoesNotAccept))) := by
  cases hov : c.overlaps with
  | true =>
    simp only [runCommand, hov, if_true, Host.Outcome.refused.injEq] at h
    exact .inl ⟨rfl, h.symm⟩
  | false =>
    by_cases hnow : c.now.toNat < s.nowMs.toNat
    · simp only [runCommand, hov, hnow, Bool.false_eq_true, if_false, if_true, Host.Outcome.refused.injEq] at h
      exact .inr (.inl ⟨rfl, hnow, h.symm⟩)
    · refine .inr (.inr ⟨rfl, Nat.not_lt.mp hnow, ?_⟩)
      cases hd : decode c.word with
      | error e =>
        cases e with
        | reservedOpcode op =>
          simp only [runCommand, hov, hnow, hd, Bool.false_eq_true, if_false, Host.Outcome.refused.injEq] at h
          exact .inl ⟨op, rfl, h.symm⟩
      | ok i =>
        refine .inr ⟨i, rfl, ?_⟩
        rw [runCommand_of_decode hov (Nat.not_lt.mp hnow) hd] at h
        rcases checkSink_eq_refused h with he | ⟨rfl, t, he, hs⟩
        · rcases exec_next_or_timeWrap i (s.accept c.now rest) with ⟨t, ht⟩ | ⟨hi, hw⟩
          · simp [ht] at he
          · cases hw.symm.trans he
            exact .inl ⟨hi, hw, rfl⟩
        · exact .inr ⟨t, he, hs, rfl⟩

/-- A refusal of the next input is the refusal of a waiting command: a reset and an empty inbox answer a state. -/
theorem runNext_eq_refused {s : State} {r : Refusal} (h : runNext s = .refused r) :
    ∃ c rest, s.inbox = .command c :: rest ∧ runCommand c rest s = .refused r := by
  unfold runNext at h
  split at h
  · cases h
  · cases h
  · rename_i c rest hin
    exact ⟨c, rest, hin, h⟩

/-- No input is refused as a bad configuration: only the configuration is (R6). -/
theorem runNext_ne_badConfiguration (s : State) : runNext s ≠ .refused .badConfiguration := by
  intro h
  obtain ⟨c, rest, -, hc⟩ := runNext_eq_refused h
  rcases runCommand_eq_refused hc with
    ⟨-, hr⟩ | ⟨-, -, hr⟩ | ⟨-, -, ⟨op, -, hr⟩ | ⟨i, -, ⟨-, -, hr⟩ | ⟨t, -, -, hr⟩⟩⟩ <;> cases hr

theorem step_eq_badConfiguration_iff (s : State) :
    step s = .refused .badConfiguration ↔ ¬ s.cfg.wf = true := by
  refine ⟨fun h hwf => ?_, step_of_not_wf⟩
  exact runNext_ne_badConfiguration s (step_of_wf hwf ▸ h)

/-- Settles O31: a dutiful command passes every guard of the step, and a placed word is such a command. -/
theorem stepRunsDecodedInstruction : Obligations.StepRunsDecodedInstruction := by
  refine ⟨fun s c rest i hwf hin hc hd => step_of_dutiful hwf hin hc hd, fun s w i hwf hw => ?_⟩
  obtain ⟨word, hword, hd⟩ := decodeTableWord_eq_some.mp hw
  rw [State.withFetchWord_of_command hword, step_presentWord hwf hd]

/-- Settles O34: the step checks the bounds before anything else, and no refusal of an input has that name. -/
theorem configurationBoundsRefused : Obligations.ConfigurationBoundsRefused :=
  ⟨config_withOpen_wf_iff, fun s => (step_eq_badConfiguration_iff s).trans (not_congr config_wf_iff)⟩

end Sys2Proof.Machine
end

section
/-! The state record over all operations (10_state.md, sections 2 and 3): every way an operation can write it, as one
relation, and what each step leaves unchanged or keeps. -/

namespace Sys2Proof.Machine

/-! What an operation can write -/

/-- The press and release notifications of a datagram with this code (42_event_deriver.md R85). -/
def pressEvents (code : Code) (s : State) : List Event :=
  if s.activeValid then if s.activeCode = code then [] else [.released s.activeCode, .pressed code]
  else [.pressed code]

/-- After the press and release part of Derive the code is the one held, whatever was held before (R85). -/
theorem pressCode_eq (code : Code) (s : State) :
    pressCode code s =
      { s with activeValid := true, activeCode := code, eventOut := s.eventOut ++ pressEvents code s } := by
  rcases pressCode_cases code s with ⟨hv, rfl, h⟩ | ⟨hv, h⟩ | ⟨hv, hc, h⟩ <;> rw [h]
  · have hnone : pressEvents s.activeCode s = [] := by simp [pressEvents, hv]
    rw [hnone, List.append_nil, ← hv]
  · simp [pressEvents, hv]
  · simp [pressEvents, hv, hc]

/-- Every way an operation can go on: `Effect s i t` says what `i` writes on its way from `s` to `t`. The response is
left open. -/
inductive Effect (s : State) : Instr → State → Prop
  /-- The first CONNECT (R97). -/
  | bind (p : Protocol) (pin : Pin) (r : Response) (hb : s.protoBound = false) :
      Effect s (.connect p pin)
        { s with sessionValid := true, proto := p, capturePin := pin, protoBound := true, response := r }
  /-- A later CONNECT (R97). -/
  | rebind (p : Protocol) (pin : Pin) (r : Response) (hb : s.protoBound = true) :
      Effect s (.connect p pin) { s with sessionValid := true, response := r }
  /-- A MARK latched (R54). -/
  | latch (us : Duration) (r : Response) (hb : s.protoBound = true) :
      Effect s (.mark us) { s with markLatch := us, response := r }
  /-- A MARK ignored (R54). -/
  | markIgnored (us : Duration) (r : Response) (hb : s.protoBound = false) :
      Effect s (.mark us) { s with response := r }
  /-- A SPACE ignored (R55). -/
  | spaceIgnored (us : Duration) (r : Response) (hb : s.protoBound = false) :
      Effect s (.space us) { s with response := r }
  /-- A SPACE with an INCOMPLETE outcome: a data bit or a LONG boundary (R52, R56, R58). A counter of 32 or more
  comes only from overrun, which shifts nothing in. -/
  | count (us : Duration) (n : BitVec 6) (hi lo : Field16) (r : Response) (hb : s.protoBound = true)
      (hn : n.toNat ≤ 32 ∨ n = 33)
      (hfull : 32 ≤ n.toNat → 32 ≤ s.bitsReceived.toNat ∧ hi = s.hiWord ∧ lo = s.loWord) :
      Effect s (.space us) { s with bitsReceived := n, hiWord := hi, loWord := lo, response := r }
  /-- A SPACE with a REPEAT outcome (R86). -/
  | refresh (us : Duration) (d : Time) (r : Response) (hb : s.protoBound = true)
      (hd : d.toNat = s.nowMs.toNat + s.cfg.repeatTimeoutMs) :
      Effect s (.space us) { s with bitsReceived := 0, repeatDeadline := d, response := r }
  /-- A SPACE that completes a frame (R61, R85). -/
  | complete (us : Duration) (d : Time) (lo : Field16) (r : Response) (hb : s.protoBound = true)
      (h31 : s.bitsReceived.toNat = 31) (hd : d.toNat = s.nowMs.toNat + s.cfg.repeatTimeoutMs) :
      Effect s (.space us)
        { s with bitsReceived := 32, loWord := lo, addressField := s.hiWord, commandField := lo, repeatDeadline := d,
                 hasUnread := true, activeValid := true, activeCode := buttonCodeOf lo,
                 eventOut := s.eventOut ++ .datagramReady :: pressEvents (buttonCodeOf lo) s, response := r }
  /-- A TICK that releases the held button (R87). -/
  | release (r : Response) (hb : s.protoBound = true) (ht : timedOut s = true) :
      Effect s .tick
        { s with eventOut := s.eventOut ++ [.released s.activeCode], bitsReceived := 0, activeValid := false,
                 response := r }
  /-- A TICK ignored, or with nothing to release (R87). -/
  | tickIdle (r : Response) (ht : s.protoBound = true → timedOut s = false) : Effect s .tick { s with response := r }
  /-- RD_BUTTON (R98). -/
  | readButton (r : Response) : Effect s .rdButton { s with response := r }
  /-- RD_DATAGRAM (R99). -/
  | readDatagram (r : Response) : Effect s .rdDatagram { s with sessionValid := true, response := r }
  /-- RD_RXFLAG (R100). -/
  | readFlag (r : Response) : Effect s .rdRxflag { s with sessionValid := true, hasUnread := false, response := r }

section
variable {i : Instr} {s t : State}

/-- RD_BUTTON only responds (R98). -/
theorem execRdButton_eq (s : State) : execRdButton s =
    .next (s.respond (if s.sessionValid then codeResponse (buttonCodeOf s.commandField) else anyButtonResponse)) := by
  unfold execRdButton
  split <;> rfl

theorem effect_of_execSpace {us : Duration} (h : execSpace us s = .next t) : Effect s (.space us) t := by
  cases hb : s.protoBound with
  | false =>
    rcases execSpace_eq_next.mp h with ⟨-, rfl⟩ | ⟨hb', -⟩
    · exact .spaceIgnored us _ hb
    · simp [hb] at hb'
  | true =>
    rcases execSpace_cases hb h with ⟨n, hi, lo, r, rfl, hn, hfull⟩ | ⟨d, r, rfl, hd⟩ | ⟨d, lo, r, h31, rfl, hd⟩
    · exact .count us n hi lo r hb hn hfull
    · exact .refresh us d r hb hd
    · rw [pressCode_eq, List.append_assoc]
      exact .complete us d lo r hb h31 hd

/-- Every next state an operation answers is one of the effects. -/
theorem effect_of_exec (h : exec i s = .next t) : Effect s i t := by
  cases i with
  | connect p pin =>
    cases (execConnect_eq p pin s).symm.trans h
    split
    · exact .rebind p pin 0 ‹_›
    · exact .bind p pin 1 (Bool.eq_false_iff.mpr ‹_›)
  | mark us =>
    cases (execMark_eq us s).symm.trans h
    split
    · exact .latch us 0 ‹_›
    · exact .markIgnored us _ (Bool.eq_false_iff.mpr ‹_›)
  | space us => exact effect_of_execSpace h
  | tick =>
    cases (execTick_eq s).symm.trans h
    split
    · rename_i hb
      exact .tickIdle _ fun h => absurd h (Bool.eq_false_iff.mp hb)
    · split
      · exact .release 1 (Bool.eq_true_of_not_eq_false ‹_›) ‹_›
      · exact .tickIdle 0 fun _ => Bool.eq_false_iff.mpr ‹_›
  | rdButton =>
    cases (execRdButton_eq s).symm.trans h
    exact .readButton _
  | rdDatagram => cases h; exact .readDatagram _
  | rdRxflag => cases h; exact .readFlag _

/-! What every operation leaves unchanged -/

/-- No operation writes the configuration, the sampled time or the inputs that wait (R24, R29). -/
theorem Effect.inputs (e : Effect s i t) : t.cfg = s.cfg ∧ t.nowMs = s.nowMs ∧ t.inbox = s.inbox := by
  cases e <;> exact ⟨rfl, rfl, rfl⟩

/-- Only CONNECT writes the binding (R11, R12). -/
theorem Effect.binding_of_not_connect (e : Effect s i t) (hi : ∀ p pin, i ≠ .connect p pin) :
    t.protoBound = s.protoBound ∧ t.proto = s.proto ∧ t.capturePin = s.capturePin := by
  cases e with
  | bind p pin => exact absurd rfl (hi p pin)
  | _ => exact ⟨rfl, rfl, rfl⟩

/-- A binding, once made, is kept by CONNECT too (R97). -/
theorem Effect.binding_of_bound (e : Effect s i t) (hs : s.protoBound = true) :
    t.protoBound = true ∧ t.proto = s.proto ∧ t.capturePin = s.capturePin := by
  cases e with
  | bind p pin r hb => exact absurd hs (Bool.eq_false_iff.mp hb)
  | _ => exact ⟨hs, rfl, rfl⟩

/-- No operation destroys a session (R14, R96). -/
theorem Effect.sessionValid_of_session (e : Effect s i t) (hs : s.sessionValid = true) : t.sessionValid = true := by
  cases e with
  | bind | rebind | readDatagram | readFlag => rfl
  | _ => exact hs

theorem Effect.markLatch_of_not_mark (e : Effect s i t) (hi : ∀ us, i ≠ .mark us) : t.markLatch = s.markLatch := by
  cases e with
  | latch us => exact absurd rfl (hi us)
  | _ => rfl

/-- Only SPACE, through Fold and Derive, writes the accumulators, the decoded fields, the deadline and the code held
(R27). -/
theorem Effect.decoded_of_not_space (e : Effect s i t) (hi : ∀ us, i ≠ .space us) :
    t.hiWord = s.hiWord ∧ t.loWord = s.loWord ∧ t.addressField = s.addressField ∧
      t.commandField = s.commandField ∧ t.repeatDeadline = s.repeatDeadline ∧ t.activeCode = s.activeCode := by
  cases e with
  | count us | refresh us | complete us => exact absurd rfl (hi us)
  | _ => exact ⟨rfl, rfl, rfl, rfl, rfl, rfl⟩

theorem Effect.held_and_counter_of_not_space_tick (e : Effect s i t) (hi : ∀ us, i ≠ .space us) (ht : i ≠ .tick) :
    t.activeValid = s.activeValid ∧ t.bitsReceived = s.bitsReceived := by
  cases e with
  | count us | refresh us | complete us => exact absurd rfl (hi us)
  | release => exact absurd rfl ht
  | _ => exact ⟨rfl, rfl⟩

theorem Effect.hasUnread_of_not_space_rxflag (e : Effect s i t) (hi : ∀ us, i ≠ .space us) (hr : i ≠ .rdRxflag) :
    t.hasUnread = s.hasUnread := by
  cases e with
  | complete us => exact absurd rfl (hi us)
  | readFlag => exact absurd rfl hr
  | _ => rfl

/-- A boundary pulse never reaches Fold (R52). -/
theorem execSpace_boundary_keeps_words {us : Duration} (hw : s.cfg.wf = true)
    (hsync : s.cfg.tSync ≤ s.markLatch.toNat + us.toNat) (h : execSpace us s = .next t) :
    t.hiWord = s.hiWord ∧ t.loWord = s.loWord ∧ t.addressField = s.addressField ∧
      t.commandField = s.commandField := by
  rcases execSpace_eq_next.mp h with ⟨-, rfl⟩ | ⟨-, u, hu, rfl⟩
  · exact ⟨rfl, rfl, rfl, rfl⟩
  · by_cases hlong : s.cfg.tLong ≤ s.markLatch.toNat + us.toNat
    · rw [spaceClass_of_long hw hlong] at hu
      cases hu
      exact ⟨rfl, rfl, rfl, rfl⟩
    · rw [spaceClass_of_repeat hw hsync (Nat.lt_of_not_le hlong)] at hu
      obtain ⟨d, -, rfl⟩ := deriveEvents_repeat_eq_some.mp hu
      exact ⟨rfl, rfl, rfl, rfl⟩

/-! The step through the effects -/

/-- A step that performs no reset: nothing presented, or the effect of an operation at the sampled time. -/
theorem step_effect_of_not_reset (h : step s = .next t) (hr : s.inbox.head? ≠ some .reset) :
    (s.inbox = [] ∧ t = s) ∨ ∃ c rest i, s.inbox = .command c :: rest ∧ s.nowMs.toNat ≤ c.now.toNat ∧
      Effect (s.accept c.now rest) i t := by
  obtain ⟨-, hidle | ⟨rest, hin, -⟩ | ⟨c, rest, i, hin, -, hnow, -, he, -⟩⟩ := step_eq_next h
  · exact .inl hidle
  · exact absurd (by simp [hin]) hr
  · exact .inr ⟨c, rest, i, hin, hnow, effect_of_exec he⟩

/-- What a reset establishes, and sampling a command and every operation keep, is kept by every step. -/
theorem step_keeps {P : State → Prop} (hreset : ∀ (s : State) (rest : List Input), P (s.applyReset rest))
    (haccept : ∀ (s : State) (now : Time) (rest : List Input), s.nowMs.toNat ≤ now.toNat → P s →
      P (s.accept now rest))
    (hexec : ∀ (i : Instr) (s t : State), Effect s i t → P s → P t)
    (hs : P s) (h : step s = .next t) : P t := by
  obtain ⟨-, ⟨-, rfl⟩ | ⟨rest, -, rfl⟩ | ⟨c, rest, i, -, -, hnow, -, he, -⟩⟩ := step_eq_next h
  · exact hs
  · exact hreset s rest
  · exact hexec i _ t (effect_of_exec he) (haccept s c.now rest hnow hs)

/-! The invariants of the record (R23) -/

theorem recordInv_applyReset (s : State) (rest : List Input) : (s.applyReset rest).RecordInv where
  counter := Nat.zero_le _
  deadline := nofun
  quiet _ := ⟨rfl, rfl, rfl, rfl, rfl⟩
  session := nofun

/-- Time moves on: an upper bound by the earlier time is one by the later. -/
theorem State.RecordInv.accept (hs : s.RecordInv) {now : Time} (rest : List Input)
    (hnow : s.nowMs.toNat ≤ now.toNat) : (s.accept now rest).RecordInv where
  counter := hs.counter
  deadline hv :=
    have ⟨hlow, hhigh⟩ := hs.deadline hv
    ⟨hlow, Nat.le_trans hhigh (Nat.add_le_add_right hnow _)⟩
  quiet := hs.quiet
  session := hs.session

theorem State.deadlineScheduled_of_eq (hd : s.repeatDeadline.toNat = s.nowMs.toNat + s.cfg.repeatTimeoutMs) :
    s.deadlineScheduled := fun _ => by omega

theorem State.quietBeforeConnect_of_bound (hb : s.protoBound = true) : s.quietBeforeConnect :=
  fun h => absurd hb (Bool.eq_false_iff.mp h)

/-- Every operation keeps the record's invariants: only SPACE and TICK touch the counter, the deadline and the held
button, and they do so bound; CONNECT alone binds, and creates the session with it. -/
theorem State.RecordInv.effect (hs : s.RecordInv) (e : Effect s i t) : t.RecordInv := by
  cases e with
  | bind p pin r => exact ⟨hs.counter, hs.deadline, quietBeforeConnect_of_bound rfl, fun _ => rfl⟩
  | rebind | readDatagram => exact ⟨hs.counter, hs.deadline, hs.quiet, fun _ => rfl⟩
  | readFlag r =>
    refine ⟨hs.counter, hs.deadline, fun hb => ?_, fun _ => rfl⟩
    obtain ⟨hcount, hheld, -, haddr, hcmd⟩ := hs.quiet hb
    exact ⟨hcount, hheld, rfl, haddr, hcmd⟩
  | count us n hi lo r hb hn =>
    refine ⟨?_, hs.deadline, quietBeforeConnect_of_bound hb, hs.session⟩
    rcases hn with hn | rfl
    · exact Nat.le_succ_of_le hn
    · exact Nat.le_refl 33
  | refresh us d r hb hd =>
    exact ⟨Nat.zero_le _, deadlineScheduled_of_eq hd, quietBeforeConnect_of_bound hb, hs.session⟩
  | complete us d lo r hb h31 hd =>
    exact ⟨Nat.le_succ 32, deadlineScheduled_of_eq hd, quietBeforeConnect_of_bound hb, hs.session⟩
  | release r hb => exact ⟨Nat.zero_le _, nofun, quietBeforeConnect_of_bound hb, hs.session⟩
  | latch | markIgnored | spaceIgnored | tickIdle | readButton =>
    exact ⟨hs.counter, hs.deadline, hs.quiet, hs.session⟩

/-! The outputs are not read (R25) -/

/-- Sampling a command and a reset both overwrite the last response, so the next input never sees it. -/
theorem runNext_response (hin : s.inbox ≠ []) (r : Response) : runNext { s with response := r } = runNext s := by
  cases hq : s.inbox with
  | nil => exact absurd hq hin
  | cons x rest =>
    cases x with
    | reset => simp only [runNext, hq]; rfl
    | command c => simp only [runNext, hq]; rfl

/-- The state with other events on the event output. -/
def State.withEvents (s : State) (es : List Event) : State := { s with eventOut := es }

/-- Fold neither reads nor writes the event output. -/
theorem foldBit_withEvents (b : Bool) (s : State) (es : List Event) :
    foldBit b (s.withEvents es) = ((foldBit b s).1.withEvents es, (foldBit b s).2) := by
  unfold foldBit countBit State.withEvents
  split_ifs <;> rfl

theorem decodeClass_withEvents (c : PulseClass) (s : State) (es : List Event) :
    decodeClass c (s.withEvents es) = ((decodeClass c s).1.withEvents es, (decodeClass c s).2) := by
  cases c with
  | bit0 => exact foldBit_withEvents false s es
  | bit1 => exact foldBit_withEvents true s es
  | repeatCode | long => rfl

theorem decodeClass_eventOut (c : PulseClass) (s : State) : (decodeClass c s).1.eventOut = s.eventOut := by
  obtain ⟨n, hi, lo, a, k, h⟩ := decodeClass_frame c s
  rw [h]

theorem spaceClass_withEvents (us : Duration) (s : State) (es : List Event) :
    spaceClass us (s.withEvents es) = spaceClass us s := rfl

/-- Derive appends the same events whatever stands on the event output (R89). -/
theorem deriveEvents_withEvents {out : PulseOutcome} (h : deriveEvents out s = some t) (es : List Event) :
    ∃ new, t.eventOut = s.eventOut ++ new ∧
      deriveEvents out (s.withEvents es) = some (t.withEvents (es ++ new)) := by
  cases out with
  | incomplete =>
    cases h
    exact ⟨[], (List.append_nil _).symm, by rw [List.append_nil, deriveEvents_incomplete]⟩
  | repeatCode =>
    obtain ⟨d, hd, rfl⟩ := deriveEvents_repeat_eq_some.mp h
    exact ⟨[], (List.append_nil _).symm, deriveEvents_repeat_eq_some.mpr ⟨d, hd, by rw [List.append_nil]; rfl⟩⟩
  | datagram =>
    obtain ⟨d, hd, rfl⟩ := deriveEvents_datagram_eq_some.mp h
    refine ⟨.datagramReady :: pressEvents (buttonCodeOf s.commandField) s, ?_,
      deriveEvents_datagram_eq_some.mpr ⟨d, hd, ?_⟩⟩
    · simp [pressCode_eq, pressEvents]
    · simp [pressCode_eq, pressEvents, State.withEvents]

theorem execSpace_withEvents {us : Duration} (h : execSpace us s = .next t) (es : List Event) :
    ∃ new, t.eventOut = s.eventOut ++ new ∧
      execSpace us (s.withEvents es) = .next (t.withEvents (es ++ new)) := by
  rcases execSpace_eq_next.mp h with ⟨hb, rfl⟩ | ⟨hb, u, hu, rfl⟩
  · exact ⟨[], (List.append_nil _).symm, execSpace_eq_next.mpr (.inl ⟨hb, by rw [List.append_nil]; rfl⟩)⟩
  · obtain ⟨new, hnew, hu'⟩ := deriveEvents_withEvents hu es
    rw [decodeClass_eventOut] at hnew
    refine ⟨new, hnew, execSpace_eq_next.mpr (.inr ⟨hb, u.withEvents (es ++ new), ?_, ?_⟩)⟩ <;>
      rw [spaceClass_withEvents, decodeClass_withEvents]
    · exact hu'
    · rfl

/-- An operation that emits nothing passes on whatever stands on the event output. -/
theorem exec_withEvents_of_silent (h : exec i s = .next t) (es : List Event) (hs : ∀ us, i ≠ .space us)
    (ht : i ≠ .tick) : t.eventOut = s.eventOut ∧ exec i (s.withEvents es) = .next (t.withEvents es) := by
  cases i with
  | space us => exact absurd rfl (hs us)
  | tick => exact absurd rfl ht
  | connect p pin =>
    cases (execConnect_eq p pin s).symm.trans h
    refine ⟨by split <;> rfl, (execConnect_eq p pin _).trans ?_⟩
    rw [apply_ite (State.withEvents · es)]
    rfl
  | mark us =>
    cases (execMark_eq us s).symm.trans h
    refine ⟨by split <;> rfl, (execMark_eq us _).trans ?_⟩
    rw [apply_ite (State.withEvents · es)]
    rfl
  | rdButton =>
    cases (execRdButton_eq s).symm.trans h
    exact ⟨rfl, execRdButton_eq _⟩
  | rdDatagram => cases h; exact ⟨rfl, rfl⟩
  | rdRxflag => cases h; exact ⟨rfl, rfl⟩

theorem execTick_withEvents (h : execTick s = .next t) (es : List Event) :
    ∃ new, t.eventOut = s.eventOut ++ new ∧ execTick (s.withEvents es) = .next (t.withEvents (es ++ new)) := by
  have htimed : timedOut (s.withEvents es) = timedOut s := rfl
  have hbound : (s.withEvents es).protoBound = s.protoBound := rfl
  rw [execTick_eq] at h ⊢
  rw [htimed, hbound]
  cases h
  split
  · exact ⟨[], (List.append_nil _).symm, by rw [List.append_nil]; rfl⟩
  · split
    · exact ⟨[.released s.activeCode], rfl, rfl⟩
    · exact ⟨[], (List.append_nil _).symm, by rw [List.append_nil]; rfl⟩

/-- Every operation appends the same events whatever stands on the event output, and does nothing else with it. -/
theorem exec_withEvents (h : exec i s = .next t) (es : List Event) :
    ∃ new, t.eventOut = s.eventOut ++ new ∧ exec i (s.withEvents es) = .next (t.withEvents (es ++ new)) := by
  cases i with
  | space us => exact execSpace_withEvents h es
  | tick => exact execTick_withEvents h es
  | _ =>
    obtain ⟨hout, hes⟩ := exec_withEvents_of_silent h es nofun nofun
    exact ⟨[], by rw [hout, List.append_nil], by rw [List.append_nil, hes]⟩

end

/-! The obligations -/

/-- Settles O40: a reset establishes the invariants; sampling the time and every effect keep them. -/
theorem stepKeepsRecordInvariants : Obligations.StepKeepsRecordInvariants := fun _ _ hs h =>
  step_keeps recordInv_applyReset (fun _ _ rest hnow hs => hs.accept rest hnow) (fun _ _ _ e hs => hs.effect e) hs h

/-- Settles O17: operation by operation from the effects; a boundary SPACE does not reach Fold. -/
theorem ownershipOfWrites : Obligations.OwnershipOfWrites := by
  intro i s t h
  have e := effect_of_exec h
  refine ⟨e.decoded_of_not_space, e.held_and_counter_of_not_space_tick, e.hasUnread_of_not_space_rxflag, ?_⟩
  rintro us rfl (hb | ⟨hw, hsync⟩)
  · rcases execSpace_eq_next.mp h with ⟨-, rfl⟩ | ⟨hb', -⟩
    · exact ⟨rfl, rfl, rfl, rfl⟩
    · exact absurd hb' (Bool.eq_false_iff.mp hb)
  · exact execSpace_boundary_keeps_words hw hsync h

/-- Settles O18: only the first CONNECT writes the binding, and it needs an unbound state. -/
theorem bindingImmutable : Obligations.BindingImmutable := by
  refine ⟨fun i s t h => (effect_of_exec h).binding_of_not_connect, fun s t h hb hr => ?_⟩
  rcases step_effect_of_not_reset h hr with ⟨-, rfl⟩ | ⟨c, rest, i, -, -, e⟩
  · exact ⟨hb, rfl, rfl⟩
  · exact e.binding_of_bound hb

/-- Settles O19: the bit is only ever set. -/
theorem sessionCreatedNeverDestroyed : Obligations.SessionCreatedNeverDestroyed := by
  refine ⟨fun i s t h => ?_, fun s t h hs hr => ?_⟩
  · cases effect_of_exec h with
    | bind | rebind | readDatagram | readFlag => exact (Bool.or_true _).symm
    | _ => exact (Bool.or_false _).symm
  · rcases step_effect_of_not_reset h hr with ⟨-, rfl⟩ | ⟨c, rest, i, -, -, e⟩
    · exact hs
    · exact e.sessionValid_of_session hs

/-- Settles O20: of the effects only a latched MARK writes the field. -/
theorem markLatchSurvivesAllButMark : Obligations.MarkLatchSurvivesAllButMark :=
  fun _ _ _ h => (effect_of_exec h).markLatch_of_not_mark

/-- Settles O21: a reset keeps the configuration too. -/
theorem configurationFixed : Obligations.ConfigurationFixed := by
  intro s t h
  obtain ⟨-, ⟨-, rfl⟩ | ⟨rest, -, rfl⟩ | ⟨c, rest, i, -, -, -, -, he, -⟩⟩ := step_eq_next h
  · rfl
  · rfl
  · exact (effect_of_exec he).inputs.1

/-- Settles O24: sampling clears the response, and no operation reads the event output it appends to. -/
theorem outputsNotRead : Obligations.OutputsNotRead := by
  refine ⟨fun s r hin => ?_, fun i s t es h => exec_withEvents h es⟩
  simp only [step, stepUnderConfig, runNext_response hin r]

/-- Settles O37: the step samples the command's time, which may not lie before `nowMs`, and no operation writes it. -/
theorem timeNeverDecreases : Obligations.TimeNeverDecreases := by
  intro s t h
  refine ⟨fun c rest hin => ?_, fun hr => ?_⟩
  · rcases step_effect_of_not_reset h (by simp [hin]) with ⟨hnil, -⟩ | ⟨c', rest', i, hin', -, e⟩
    · simp [hin] at hnil
    · cases hin.symm.trans hin'
      exact e.inputs.2
  · rcases step_effect_of_not_reset h hr with ⟨-, rfl⟩ | ⟨c, rest, i, -, hnow, e⟩
    · exact Nat.le_refl _
    · obtain ⟨-, htime, -⟩ := e.inputs
      rw [htime]
      exact hnow

/-- Settles O44: only a REPEAT and a DATAGRAM write the deadline or start a hold. -/
theorem deadlineWrittenFromNow : Obligations.DeadlineWrittenFromNow := by
  intro i s t h hw
  cases effect_of_exec h with
  | refresh us d r hb hd | complete us d lo r hb h31 hd => exact hd
  | _ => simp at hw

/-- Settles O43: nothing is bound, held or received, and the event output is empty. -/
theorem invariantsHoldAtReset : Obligations.InvariantsHoldAtReset :=
  ⟨recordInv_applyReset State.reset [], ⟨nofun, nofun⟩, rfl⟩

end Sys2Proof.Machine
end

section
/-! Command words and event words (30_encoding.md R42 to R48): the fields of a word as numbers, what it takes for a
word to decode to an operation, and what a reserved word does. -/

namespace Sys2Proof

variable {w v : CommandWord} {i : Instr}

/-! The fields as numbers (R42, R44) -/

theorem opField_toNat (w : CommandWord) : (opField w).toNat = w.toNat / 2 ^ 32 := by
  have := w.isLt
  simp only [opField, BitVec.extractLsb'_toNat, Nat.shiftRight_eq_div_pow]
  omega

theorem opField_eq_ofNat (w : CommandWord) : opField w = BitVec.ofNat 4 (w.toNat / 2 ^ 32) := by
  rw [← opField_toNat, BitVec.ofNat_toNat, BitVec.setWidth_eq]

theorem operandField_eq_ofNat (w : CommandWord) : operandField w = BitVec.ofNat 32 w.toNat := rfl

theorem protocolField_operandField (w : CommandWord) :
    protocolField (operandField w) = if w.toNat % 2 = 1 then .nec else .vendorVariant := by
  simp [protocolField, operandField, BitVec.getLsbD, Nat.testBit_zero]

theorem pinField_operandField (w : CommandWord) :
    pinField (operandField w) = BitVec.ofNat 8 (w.toNat / 256) := by
  apply BitVec.eq_of_toNat_eq
  simp only [pinField, operandField, BitVec.extractLsb'_toNat, BitVec.toNat_ofNat, Nat.shiftRight_eq_div_pow]
  omega

/-! CONNECT's operand: its fields stand at the bits it uses, and those bits alone give them (R44) -/

theorem toBit_protocolField (x : Operand) : (protocolField x).toBit = x.extractLsb' 0 1 := by
  apply BitVec.eq_of_getLsbD_eq
  intro k hk
  obtain rfl : k = 0 := by omega
  unfold protocolField
  cases h : x.getLsbD 0 <;> simpa [Protocol.toBit] using h

/-- An operand as CONNECT lays it out: unused bits, pin, unused bits, protocol bit. -/
theorem operand_eq_append (x : Operand) :
    x = x.extractLsb' 16 16 ++ x.extractLsb' 8 8 ++ x.extractLsb' 1 7 ++ x.extractLsb' 0 1 := by
  rw [BitVec.extractLsb'_append_extractLsb'_eq_extractLsb' (by rfl),
    BitVec.extractLsb'_append_extractLsb'_eq_extractLsb' (by rfl),
    BitVec.extractLsb'_append_extractLsb'_eq_extractLsb' (by rfl)]
  exact BitVec.extractLsb'_eq_self.symm

theorem operand_connect_of_fields (x : Operand) :
    (Instr.connect (protocolField x) (pinField x)).operand = x &&& ~~~0xFFFF00FE := by
  have hmask : ~~~(0xFFFF00FE : Operand) = 0#16 ++ BitVec.allOnes 8 ++ 0#7 ++ BitVec.allOnes 1 := by decide
  calc (Instr.connect (protocolField x) (pinField x)).operand
      = 0#16 ++ x.extractLsb' 8 8 ++ 0#7 ++ x.extractLsb' 0 1 := by
        rw [← toBit_protocolField]; rfl
    _ = (x.extractLsb' 16 16 ++ x.extractLsb' 8 8 ++ x.extractLsb' 1 7 ++ x.extractLsb' 0 1) &&&
          (0#16 ++ BitVec.allOnes 8 ++ 0#7 ++ BitVec.allOnes 1) := by
        simp only [BitVec.and_append, BitVec.and_zero, BitVec.and_allOnes]
    _ = x &&& ~~~0xFFFF00FE := by rw [hmask, ← operand_eq_append]

theorem protocolField_operand_connect (p : Protocol) (pin : Pin) :
    protocolField (Instr.connect p pin).operand = p := by
  simp only [protocolField, Instr.operand, BitVec.getLsbD_append]
  cases p <;> rfl

theorem pinField_operand_connect (p : Protocol) (pin : Pin) : pinField (Instr.connect p pin).operand = pin := by
  apply BitVec.eq_of_getLsbD_eq
  intro k hk
  simp only [pinField, Instr.operand, BitVec.getLsbD_extractLsb', BitVec.getLsbD_append]
  simp [hk]

theorem protocolField_and_used (x : Operand) : protocolField (x &&& ~~~0xFFFF00FE) = protocolField x := by
  simp [protocolField]

theorem pinField_and_used (x : Operand) : pinField (x &&& ~~~0xFFFF00FE) = pinField x := by
  unfold pinField
  rw [BitVec.extractLsb'_and]
  exact BitVec.and_allOnes

/-! Which words decode to an operation -/

/-- MARK and SPACE use every operand bit. -/
theorem operand_and_not_zero (x : Operand) : x &&& ~~~0#32 = x := by
  rw [BitVec.not_zero, BitVec.and_allOnes]

theorem operandField_and_of_decode (h : decode w = .ok i) :
    operandField w &&& ~~~i.unusedOperandBits = i.operand := by
  unfold decode at h
  split at h <;> cases h
  case h_1 => exact (operand_connect_of_fields _).symm
  case h_2 | h_3 => exact operand_and_not_zero _
  case h_4 | h_5 | h_6 | h_7 => exact BitVec.and_zero (x := operandField w)

/-- A word decodes to an operation exactly when it has its `op` and, at the operand bits the operation uses, its
operand (R42, R44, R45). -/
theorem decode_eq_ok_iff :
    decode w = .ok i ↔ opField w = i.opcode ∧ operandField w &&& ~~~i.unusedOperandBits = i.operand := by
  refine ⟨fun h => ⟨decode_eq_ok_opcode h, operandField_and_of_decode h⟩, fun ⟨hop, hx⟩ => ?_⟩
  cases i with
  | connect p pin =>
    have hused : operandField w &&& ~~~0xFFFF00FE = (Instr.connect p pin).operand := hx
    have hp : protocolField (operandField w) = p := by
      rw [← protocolField_and_used, hused, protocolField_operand_connect]
    have hpin : pinField (operandField w) = pin := by
      rw [← pinField_and_used, hused, pinField_operand_connect]
    simp [decode, hop, Instr.opcode, hp, hpin]
  | mark us | space us =>
    have hus : operandField w = us := (operand_and_not_zero _).symm.trans hx
    simp [decode, hop, Instr.opcode, hus]
  | tick | rdButton | rdDatagram | rdRxflag => simp [decode, hop, Instr.opcode]

/-- No operation has `op` 0, or 8 and above (R43, R45). -/
theorem decode_of_reserved (h : w.toNat / 2 ^ 32 = 0 ∨ 8 ≤ w.toNat / 2 ^ 32) :
    decode w = .error (.reservedOpcode (opField w)) := by
  rw [← opField_toNat] at h
  cases hd : decode w with
  | error e => rw [decode_eq_error hd]
  | ok i =>
    rw [decode_eq_ok_opcode hd] at h
    cases i <;> simp [Instr.opcode] at h

/-! Should-be-zero bits (R45) -/

/-- Clearing operand bits of a word clears them in its operand and leaves its `op`. -/
theorem and_not_operandBits (w : CommandWord) (u : Operand) :
    w &&& ~~~((0 : BitVec 4) ++ u) = packCommand (opField w) (operandField w &&& ~~~u) := by
  have hmask : ~~~((0 : BitVec 4) ++ u) = packCommand (BitVec.allOnes 4) (~~~u) := BitVec.not_append
  calc w &&& ~~~((0 : BitVec 4) ++ u)
      = packCommand (opField w) (operandField w) &&& packCommand (BitVec.allOnes 4) (~~~u) := by
        rw [packCommand_fields, hmask]
    _ = packCommand (opField w &&& BitVec.allOnes 4) (operandField w &&& ~~~u) := BitVec.and_append
    _ = packCommand (opField w) (operandField w &&& ~~~u) := by rw [BitVec.and_allOnes]

/-- Words that differ only outside a mask agree under it. -/
theorem and_eq_and_of_xor_and_eq_zero {n : Nat} {x y m : BitVec n} (h : (x ^^^ y) &&& m = 0) :
    x &&& m = y &&& m := by
  apply BitVec.xor_eq_zero_iff.mp
  rw [← BitVec.ofNat_eq_ofNat, ← h]
  ext k
  simp [Bool.and_xor_distrib_right]

/-- Words that differ only in some operand bits have the same `op` and agree in the other operand bits. -/
theorem fields_eq_of_xor_and_eq_zero {u : Operand} (h : (w ^^^ v) &&& ~~~((0 : BitVec 4) ++ u) = 0) :
    opField w = opField v ∧ operandField w &&& ~~~u = operandField v &&& ~~~u := by
  have hwv := and_eq_and_of_xor_and_eq_zero h
  rw [and_not_operandBits, and_not_operandBits] at hwv
  exact ⟨by simpa using congrArg opField hwv, by simpa using congrArg operandField hwv⟩

theorem decode_eq_ok_of_unusedOperandBits (h : decode w = .ok i)
    (hwv : (w ^^^ v) &&& ~~~((0 : BitVec 4) ++ i.unusedOperandBits) = 0) : decode v = .ok i := by
  obtain ⟨hop, hx⟩ := fields_eq_of_xor_and_eq_zero hwv
  rw [decode_eq_ok_iff] at h ⊢
  rwa [← hop, ← hx]

end Sys2Proof

namespace Sys2Proof.Machine

/-! A reserved word at the step (R45) -/

theorem runCommand_of_decode_error {c : Command} {rest : List Input} {s : State} {op : Opcode}
    (hov : c.overlaps = false) (hnow : s.nowMs.toNat ≤ c.now.toNat)
    (hd : decode c.word = .error (.reservedOpcode op)) : runCommand c rest s = .refused (.reservedOpcode op) := by
  simp [runCommand, hov, Nat.not_lt.mpr hnow, hd]

/-! Event words (R48) -/

theorem Event.word_toNat (e : Event) : e.word.toNat = 0x100 * e.kind.toNat + e.code.toNat := by
  rw [show e.word = (e.kind ++ e.code : BitVec 10) from rfl, BitVec.toNat_append,
    ← Nat.shiftLeft_add_eq_or_of_lt e.code.isLt, Nat.shiftLeft_eq, Nat.mul_comm]

/-- Kind 0b00 is never produced. -/
theorem Event.kind_pos (e : Event) : 0 < e.kind.toNat := by
  cases e <;> simp [Event.kind]

/-! The obligations -/

/-- Settles O25: the fields of a word are the statement's numbers, and `decode` goes by `op`. -/
theorem operandAssembly : Obligations.OperandAssembly := by
  intro w
  rw [← protocolField_operandField, ← pinField_operandField, ← operandField_eq_ofNat, ← opField_eq_ofNat,
    ← opField_toNat, decode]
  split
  case h_8 h1 h2 h3 h4 h5 h6 h7 =>
    rw [if_neg h1, if_neg h2, if_neg h3, if_neg h4, if_neg h5, if_neg h6, if_neg h7]
  all_goals
    next hop => simp [hop]

/-- Settles O29: no operation has a reserved `op`, so the refusal is the decoder's; and of the operand only the bits an
operation uses decide what a word decodes to. -/
theorem reservedRefusedUnusedBitsIgnored : Obligations.ReservedRefusedUnusedBitsIgnored := by
  refine ⟨fun s c rest hwf hin hc hop => ?_, fun w v i h hwv => decode_eq_ok_of_unusedOperandBits h hwv⟩
  obtain ⟨hnow, hov, -⟩ := Command.dutiful_iff.mp hc
  rw [step_of_wf hwf, runNext_of_command hin, runCommand_of_decode_error hov hnow (decode_of_reserved hop),
    opField_eq_ofNat]

/-- Settles O23: an event word is 256 times its kind, which is never 0, plus its code. -/
theorem eventWordLayout : Obligations.EventWordLayout := by
  intro c e
  refine ⟨Event.word_toNat (.pressed c), Event.word_toNat (.released c), rfl, ?_⟩
  have hkind := e.kind_pos
  rw [e.word_toNat]
  omega

end Sys2Proof.Machine
end

section
/-! The classifier (40_classifier.md R51 to R57): the words of MARK, the response of a SPACE as its class and its
outcome, and the two boundary cycles as whole answers. -/

namespace Sys2Proof.Machine

section
variable {us : Duration} {s t : State}

/-! Words of MARK (R54) -/

theorem decode_of_mark_opcode {w : CommandWord} (hop : w.toNat / 2 ^ 32 = 2) :
    decode w = .ok (.mark (BitVec.ofNat 32 w.toNat)) := by
  rw [operandAssembly w, if_neg (by omega), if_pos hop]

/-! The response of a SPACE (R47, R51) -/

/-- The class of a cycle, as the response reports it, counts the thresholds its sum reaches: the sum is a natural
number, and a sum at a threshold belongs to the upper class. -/
theorem spaceClass_code_toNat (us : Duration) (s : State) :
    (spaceClass us s).code.toNat =
      if s.markLatch.toNat + us.toNat < s.cfg.tBit1 then 0
      else if s.markLatch.toNat + us.toNat < s.cfg.tSync then 1
      else if s.markLatch.toNat + us.toNat < s.cfg.tLong then 2 else 3 := by
  unfold spaceClass classify pulseSum
  split_ifs <;> rfl

/-- Outcome code 3 is never produced. -/
theorem PulseOutcome.code_toNat_lt (out : PulseOutcome) : out.code.toNat < 3 := by
  cases out <;> decide

/-- Only INCOMPLETE has outcome bits 0b00. -/
theorem PulseOutcome.eq_incomplete_of_code_toNat {out : PulseOutcome} (h : out.code.toNat = 0) :
    out = .incomplete := by
  cases out with
  | incomplete => rfl
  | repeatCode | datagram => cases h

/-- The response of a bound SPACE is its class in bits 3:2 and its outcome in bits 1:0. -/
theorem space_response_fields (hb : s.protoBound = true) (h : exec (.space us) s = .next t) :
    t.response.toNat / 4 = (spaceClass us s).code.toNat ∧
      t.response.toNat % 4 = (opOutcome (.space us) s).code.toNat := by
  rcases execSpace_eq_next.mp h with ⟨hb', -⟩ | ⟨-, u, -, rfl⟩
  · simp [hb'] at hb
  · have hlt := (decodeClass (spaceClass us s) s).2.code_toNat_lt
    simp only [State.respond_response, spaceResponse_toNat, opOutcome, hb, if_true]
    omega

/-! The non-event (R56) -/

/-- A SPACE with an INCOMPLETE outcome answers the state Decode leaves: Derive adds nothing. -/
theorem space_eq_of_incomplete (hb : s.protoBound = true) (h : exec (.space us) s = .next t)
    (ho : opOutcome (.space us) s = .incomplete) :
    t = (decodeClass (spaceClass us s) s).1.respond (spaceResponse (spaceClass us s) .incomplete) := by
  simp only [opOutcome, hb, if_true] at ho
  rcases execSpace_eq_next.mp h with ⟨hb', -⟩ | ⟨-, u, hu, rfl⟩
  · simp [hb'] at hb
  · rw [ho, deriveEvents_incomplete] at hu
    cases hu
    rw [ho]

/-! The boundary cycles (R52, R86) -/

/-- A SPACE of a known class answers the state Derive leaves. -/
theorem space_of_class {c : PulseClass} {u : State} (hb : s.protoBound = true) (hc : spaceClass us s = c)
    (hu : deriveEvents (decodeClass c s).2 (decodeClass c s).1 = some u) :
    exec (.space us) s = .next (u.respond (spaceResponse c (decodeClass c s).2)) := by
  subst hc
  exact execSpace_eq_next.mpr (.inr ⟨hb, u, hu, rfl⟩)

/-- A LONG boundary resets the counter and does nothing else. -/
theorem space_of_long (hb : s.protoBound = true) (hw : s.cfg.wf = true)
    (hlong : s.cfg.tLong ≤ s.markLatch.toNat + us.toNat) :
    exec (.space us) s = .next { s with bitsReceived := 0, response := 0xC } := by
  rw [← show spaceResponse .long .incomplete = 0xC by decide]
  exact space_of_class hb (spaceClass_of_long hw hlong) (deriveEvents_incomplete _)

theorem nextDeadline_of_lt {c : Config} {now : Time} (h : now.toNat + c.repeatTimeoutMs < 2 ^ 32) :
    nextDeadline c now = some (BitVec.ofNat 32 (now.toNat + c.repeatTimeoutMs)) :=
  if_neg (Nat.not_le.mpr h)

/-- A REPEAT boundary resets the counter and refreshes the deadline, a button held or not. -/
theorem space_of_repeat (hb : s.protoBound = true) (hw : s.cfg.wf = true)
    (hsync : s.cfg.tSync ≤ s.markLatch.toNat + us.toNat) (hlong : s.markLatch.toNat + us.toNat < s.cfg.tLong)
    (hnow : s.nowMs.toNat + s.cfg.repeatTimeoutMs < 2 ^ 32) :
    exec (.space us) s = .next { s with
      bitsReceived := 0, repeatDeadline := BitVec.ofNat 32 (s.nowMs.toNat + s.cfg.repeatTimeoutMs),
      response := 0x9 } := by
  rw [← show spaceResponse .repeatCode .repeatCode = 0x9 by decide]
  exact space_of_class hb (spaceClass_of_repeat hw hsync hlong)
    (deriveEvents_repeat_eq_some.mpr ⟨_, nextDeadline_of_lt hnow, rfl⟩)

end

/-! The obligations -/

/-- Settles O14: the class and the outcome are read back from the response. -/
theorem spaceReportsClassOfSum : Obligations.SpaceReportsClassOfSum := by
  intro us s t hb _ h
  obtain ⟨hclass, hout⟩ := space_response_fields hb h
  exact ⟨hclass.trans (spaceClass_code_toNat us s), hout ▸ (PulseOutcome.code_toNat_lt _).ne⟩

/-- Settles O16: outcome bits 0b00 mean INCOMPLETE, and then the state is the one Decode leaves. -/
theorem incompleteIsNonEvent : Obligations.IncompleteIsNonEvent := by
  intro us s t hb h h0
  have hout := (space_response_fields hb h).2
  rw [space_eq_of_incomplete hb h (PulseOutcome.eq_incomplete_of_code_toNat (hout.symm.trans h0))]
  obtain ⟨n, hi, lo, a, k, hdec⟩ := decodeClass_frame (spaceClass us s) s
  rw [hdec]
  exact ⟨rfl, rfl, rfl, rfl, rfl⟩

/-- Settles O2: MARK is one equation with a bound and an unbound case. -/
theorem markLatchesWhenBound : Obligations.MarkLatchesWhenBound := by
  refine ⟨fun w hop => decode_of_mark_opcode hop, fun a b s => ⟨fun hb => ⟨?_, ?_⟩, fun hb => ?_⟩⟩
  · rw [show exec (.mark a) s = _ from execMark_eq a s, if_pos hb]
  · rw [show exec (.mark b) _ = _ from execMark_eq b _, if_pos hb]
  · rw [show exec (.mark a) s = _ from execMark_eq a s, if_neg (Bool.eq_false_iff.mp hb)]
    rfl

/-- Settles O8: the two boundary classes. -/
theorem spaceBoundaryResetsCounter : Obligations.SpaceBoundaryResetsCounter :=
  fun _ _ hb hw => ⟨space_of_long hb hw, space_of_repeat hb hw⟩

/-- Settles O15: the sum is exact, so it is at least either of its parts. -/
theorem longDurationNeverAliases : Obligations.LongDurationNeverAliases := by
  intro us s hb hw hlong
  refine space_of_long hb hw ?_
  rcases hlong with hmark | hspace
  · exact Nat.le_add_right_of_le hmark
  · exact Nat.le_add_left_of_le hspace

end Sys2Proof.Machine
end

section
/-! Whole frames (41_assembler.md R58 to R65): the bits of a frame folded one after another, as one next state and
one list of outcomes. A frame is its address part, `k` bits up to position 16, and the 16 bits of its command part;
`k` is 16 without stuffing, and 7 after the 1 that stuffs. -/

namespace Sys2Proof.Machine

section
variable {s : State} {b : Bool} {bs : List Bool} {k : Nat}

/-! Words written bit by bit (R33, R59) -/

theorem shiftIn_eq_appendBit (r : Field16) (b : Bool) : shiftIn r b = appendBit r b := shiftIn_eq_ofNat r b

theorem appendBit_eq_add (r : Field16) (b : Bool) : appendBit r b = 2 * r + BitVec.ofNat 16 b.toNat := by
  apply BitVec.eq_of_toNat_eq
  simp [appendBit, BitVec.toNat_add, BitVec.toNat_mul]

/-- Bits appended to a word move it up by their number, and write themselves below it. -/
theorem foldl_appendBit (bs : List Bool) (r : Field16) :
    bs.foldl appendBit r = 2 ^ bs.length * r + wordOfBits bs := by
  induction bs generalizing r with
  | nil => simp [wordOfBits]
  | cons b bs ih =>
    have hword : wordOfBits (b :: bs) = 2 ^ bs.length * appendBit 0 b + wordOfBits bs := ih (appendBit 0 b)
    rw [hword, List.foldl_cons, ih, appendBit_eq_add, appendBit_eq_add, List.length_cons, pow_succ]
    ring

/-- Sixteen bits leave nothing of what the accumulator held (R64 items 1 and 3). -/
theorem foldl_appendBit_of_length_16 (h : bs.length = 16) (r : Field16) : bs.foldl appendBit r = wordOfBits bs := by
  have hpow : (2 : Field16) ^ 16 = 0 := by decide
  rw [foldl_appendBit, h, hpow, zero_mul, zero_add]

theorem wordOfBits_toNat_lt (bs : List Bool) : (wordOfBits bs).toNat < 2 ^ bs.length := by
  induction bs using List.reverseRecOn with
  | nil => decide
  | append_singleton bs b ih =>
    have happend : wordOfBits (bs ++ [b]) = appendBit (wordOfBits bs) b := List.foldl_concat ..
    have hmod : (appendBit (wordOfBits bs) b).toNat ≤ 2 * (wordOfBits bs).toNat + b.toNat := by
      rw [appendBit, BitVec.toNat_ofNat]
      exact Nat.mod_le _ _
    have hb := b.toNat_le
    rw [happend, List.length_append, List.length_singleton, pow_succ]
    omega

/-- Seven bits move the 1 that stuffed to bit 7 and leave it there (R64 item 2). -/
theorem foldl_appendBit_one_of_length_7 (h : bs.length = 7) :
    bs.foldl appendBit 1 = 0x0080 ||| wordOfBits bs := by
  have hlt : (wordOfBits bs).toNat < 2 ^ 7 := h ▸ wordOfBits_toNat_lt bs
  have hpow : (2 : Field16) ^ 7 * 1 = 0x0080 := by decide
  rw [foldl_appendBit, h, hpow]
  apply BitVec.eq_of_toNat_eq
  rw [BitVec.toNat_add, BitVec.toNat_or, show (0x0080 : Field16).toNat = 1 <<< 7 by decide,
    ← Nat.shiftLeft_add_eq_or_of_lt hlt]
  omega

/-! Folding bit after bit -/

theorem foldBits_append (xs ys : List Bool) (s : State) :
    foldBits (xs ++ ys) s =
      ((foldBits ys (foldBits xs s).1).1, (foldBits xs s).2 ++ (foldBits ys (foldBits xs s).1).2) := by
  induction xs generalizing s with
  | nil => rfl
  | cons x xs ih => simp [foldBits, ih]

/-- The counter one further, short of its width. -/
theorem counter_succ_toNat {n : BitVec 6} (h : n.toNat < 32) : (BitVec.ofNat 6 (n.toNat + 1)).toNat = n.toNat + 1 := by
  rw [BitVec.toNat_ofNat, Nat.mod_eq_of_lt (by omega)]

/-- No bit of the list, folded from this state on, is a sync marker (R60). -/
def Unstuffed (s : State) (bs : List Bool) : Prop :=
  s.proto = .nec ∨ ∀ b ∈ bs.take (8 - s.bitsReceived.toNat), b = false

theorem Unstuffed.head (h : Unstuffed s (b :: bs)) : stuffs s.proto b (s.bitsReceived.toNat + 1) = false := by
  rw [Bool.eq_false_iff]
  intro hs
  obtain ⟨hv, rfl, h8⟩ := stuffs_iff.mp hs
  rcases h with hnec | hfalse
  · cases hv.symm.trans hnec
  · have hpos : 0 < 8 - s.bitsReceived.toNat := by omega
    cases hfalse true (by simp [List.take_cons hpos])

theorem Unstuffed.tail {t : State} (h : Unstuffed s (b :: bs)) (hp : t.proto = s.proto)
    (hn : t.bitsReceived.toNat = s.bitsReceived.toNat + 1) : Unstuffed t bs := by
  rcases h with hnec | hfalse
  · exact .inl (hp.trans hnec)
  · refine .inr fun c hc => hfalse c ?_
    rw [hn] at hc
    by_cases h8 : s.bitsReceived.toNat < 8
    · have hstep : 8 - s.bitsReceived.toNat = 8 - (s.bitsReceived.toNat + 1) + 1 := by omega
      rw [hstep, List.take_succ_cons]
      exact List.mem_cons_of_mem b hc
    · simp [show 8 - (s.bitsReceived.toNat + 1) = 0 by omega] at hc

theorem Unstuffed.take (h : Unstuffed s bs) (k : Nat) : Unstuffed s (bs.take k) := by
  refine h.imp_right fun hfalse b hb => hfalse b ?_
  rw [List.take_take] at hb
  exact List.take_subset_take_left bs (Nat.min_le_left _ _) hb

/-- At the start of a frame the bits in question are its first eight. -/
theorem unstuffed_of_counter_zero (h0 : s.bitsReceived = 0) (h : s.proto = .nec ∨ ∀ b ∈ bs.take 8, b = false) :
    Unstuffed s bs := by
  rwa [Unstuffed, h0]

/-- Address bits that do not stuff are shifted into the high accumulator and counted (R59). -/
theorem foldBits_high (h16 : s.bitsReceived.toNat + bs.length ≤ 16) (hu : Unstuffed s bs) :
    foldBits bs s =
      ({ s with hiWord := bs.foldl appendBit s.hiWord,
                bitsReceived := BitVec.ofNat 6 (s.bitsReceived.toNat + bs.length) },
        List.replicate bs.length .incomplete) := by
  induction bs generalizing s with
  | nil => simp [foldBits]
  | cons b bs ih =>
    rw [List.length_cons] at h16
    have hfold := foldBit_of_high (by omega) hu.head
    have hn : (foldBit b s).1.bitsReceived.toNat = s.bitsReceived.toNat + 1 := by
      rw [hfold]
      exact counter_succ_toNat (by omega)
    rw [foldBits, ih (by omega) (hu.tail (by rw [hfold]) hn), hn, hfold]
    simp [shiftIn_eq_appendBit, List.replicate_succ, Nat.add_assoc, Nat.add_comm 1]

/-- Command bits up to position 32 are shifted into the low accumulator, and the last one completes the frame (R59,
R61). -/
theorem foldBits_low (h16 : 16 ≤ s.bitsReceived.toNat) (h32 : s.bitsReceived.toNat + (bs.length + 1) = 32) :
    foldBits (b :: bs) s =
      ({ s with loWord := (b :: bs).foldl appendBit s.loWord, bitsReceived := 32, addressField := s.hiWord,
                commandField := (b :: bs).foldl appendBit s.loWord },
        List.replicate bs.length .incomplete ++ [.datagram]) := by
  induction bs generalizing s b with
  | nil =>
    rw [foldBits, foldBit_of_last (by simpa using h32), shiftIn_eq_appendBit]
    rfl
  | cons c bs ih =>
    rw [List.length_cons] at h32
    have hn := counter_succ_toNat (n := s.bitsReceived) (by omega)
    rw [foldBits, foldBit_of_low h16 (by omega), ih (by simp only [hn]; omega) (by simp only [hn]; omega)]
    simp [shiftIn_eq_appendBit, List.replicate_succ]

/-- After the last bit of a frame every bit is INCOMPLETE (R58). -/
theorem foldBits_overrun_outcomes (h32 : 32 ≤ s.bitsReceived.toNat) (bs : List Bool) :
    (foldBits bs s).2 = List.replicate bs.length .incomplete := by
  induction bs generalizing s with
  | nil => rfl
  | cons b bs ih =>
    rw [foldBits, foldBit_of_overrun h32, ih (by simp), List.length_cons, List.replicate_succ]

/-! A whole frame -/

/-- The state right after a completed frame: both fields latched, the counter not reset (R61, R62). -/
def State.withFrame (s : State) (address command : Field16) : State :=
  { s with hiWord := address, loWord := command, bitsReceived := 32, addressField := address,
           commandField := command }

@[simp] theorem State.withFrame_addressField (s : State) (a c : Field16) : (s.withFrame a c).addressField = a := rfl
@[simp] theorem State.withFrame_commandField (s : State) (a c : Field16) : (s.withFrame a c).commandField = c := rfl
@[simp] theorem State.withFrame_bitsReceived (s : State) (a c : Field16) : (s.withFrame a c).bitsReceived = 32 := rfl

/-- The rest of a frame, `k` address bits and 16 command bits, completes on its last bit. -/
theorem foldBits_frame (hk : s.bitsReceived.toNat + k = 16) (hlen : bs.length = k + 16) (hu : Unstuffed s bs) :
    foldBits bs s =
      (s.withFrame ((bs.take k).foldl appendBit s.hiWord) (wordOfBits (bs.drop k)),
        List.replicate (k + 15) .incomplete ++ [.datagram]) := by
  have hhigh : (bs.take k).length = k := by rw [List.length_take]; omega
  have hlow : (bs.drop k).length = 16 := by rw [List.length_drop]; omega
  conv_lhs => rw [← List.take_append_drop k bs]
  rw [foldBits_append, foldBits_high (by omega) (hu.take k), hhigh, hk, ← foldl_appendBit_of_length_16 hlow s.loWord]
  cases hd : bs.drop k with
  | nil => simp [hd] at hlow
  | cons c cs =>
    have hcs : cs.length = 15 := by simpa [hd] using hlow
    rw [foldBits_low (by simp) (by simp [hcs]), hcs, ← List.append_assoc, ← List.replicate_add]
    rfl

/-- The rest of a frame, and any bits after it: one DATAGRAM, on the last bit of the frame. -/
theorem foldBits_outcomes (hk : s.bitsReceived.toNat + k = 16) (hlen : k + 16 ≤ bs.length) (hu : Unstuffed s bs) :
    (foldBits bs s).2 =
      List.replicate (k + 15) .incomplete ++ .datagram :: List.replicate (bs.length - (k + 16)) .incomplete := by
  have hframe : (bs.take (k + 16)).length = k + 16 := by rw [List.length_take]; omega
  conv_lhs => rw [← List.take_append_drop (k + 16) bs]
  rw [foldBits_append, foldBits_frame hk hframe (hu.take _), foldBits_overrun_outcomes (by simp), List.length_drop,
    List.append_assoc, List.singleton_append]

/-- The state right after the 1 that stuffs: the frame goes on behind position 9 with that 1 alone (R60). -/
def State.restartFrame (s : State) : State := { s with hiWord := 1, bitsReceived := 9 }

@[simp] theorem State.restartFrame_hiWord (s : State) : s.restartFrame.hiWord = 1 := rfl
@[simp] theorem State.restartFrame_bitsReceived (s : State) : s.restartFrame.bitsReceived = 9 := rfl

/-- Behind position 8 nothing stuffs. -/
theorem unstuffed_restartFrame (s : State) (bs : List Bool) : Unstuffed s.restartFrame bs := .inr (by simp)

/-- The first 1 among the first eight bits of a vendor frame restarts it at position 9, whatever came before (R60). -/
theorem foldBits_stuff {zeros : Nat} (h0 : s.bitsReceived = 0) (hv : s.proto = .vendorVariant) (hz : zeros < 8)
    (rest : List Bool) :
    foldBits (List.replicate zeros false ++ true :: rest) s =
      ((foldBits rest s.restartFrame).1,
        List.replicate (zeros + 1) .incomplete ++ (foldBits rest s.restartFrame).2) := by
  have hzeros : Unstuffed s (List.replicate zeros false) :=
    .inr fun b hb => List.eq_of_mem_replicate (List.mem_of_mem_take hb)
  have hn : (BitVec.ofNat 6 zeros).toNat = zeros := by rw [BitVec.toNat_ofNat, Nat.mod_eq_of_lt (by omega)]
  rw [foldBits_append, foldBits_high (by simp [h0]; omega) hzeros, foldBits,
    foldBit_of_stuff (by simp [stuffs_iff, hv, h0, hn]; omega)]
  simp [List.replicate_succ', State.restartFrame]

end

/-! The obligations -/

/-- Settles O45: a frame from counter 0 has 16 address bits, which leave nothing of what the accumulator held. -/
theorem frameHoldsItsBits : Obligations.FrameHoldsItsBits := by
  intro s bs h0 hlen hstuff
  have hframe := foldBits_frame (k := 16) (by simp [h0]) hlen (unstuffed_of_counter_zero h0 hstuff)
  have haddress : (bs.take 16).length = 16 := by rw [List.length_take, hlen]; rfl
  rw [hframe, foldl_appendBit_of_length_16 haddress]
  exact ⟨rfl, rfl, rfl⟩

/-- Settles O46: the 1 that stuffs is the high accumulator at position 9, and the frame has 7 address bits left. -/
theorem stuffedFrameHoldsItsBits : Obligations.StuffedFrameHoldsItsBits := by
  intro s zeros rest h0 hv hz hlen
  have haddress : (rest.take 7).length = 7 := by rw [List.length_take, hlen]; rfl
  rw [foldBits_stuff h0 hv hz, foldBits_frame (k := 7) rfl hlen (unstuffed_restartFrame s rest),
    State.restartFrame_hiWord, foldl_appendBit_one_of_length_7 haddress]
  exact ⟨rfl, rfl, rfl⟩

/-- Settles O47: the rest of a frame has its one DATAGRAM on its last bit, from counter 0 and, after stuffing,
from 9. -/
theorem exactlyOneCompletion : Obligations.ExactlyOneCompletion := by
  refine ⟨fun s bs h0 hlen hstuff => ?_, fun s zeros rest h0 hv hz hlen => ?_⟩
  · exact foldBits_outcomes (k := 16) (by simp [h0]) hlen (unstuffed_of_counter_zero h0 hstuff)
  · rw [foldBits_stuff h0 hv hz,
      foldBits_outcomes (k := 7) rfl hlen (unstuffed_restartFrame s rest),
      ← List.append_assoc, ← List.replicate_add]

end Sys2Proof.Machine
end

section
/-! The event deriver (42_event_deriver.md): what each outcome does to the held button and to the event output, then
runs of operations by induction, and the dispatcher. -/

namespace Sys2Proof.Machine

section
variable {i : Instr} {s t : State} {c : Code} {x : TimedOp} {xs ops : List TimedOp}

/-! Words and cases of TICK (R87) -/

theorem decode_of_tick_opcode {w : CommandWord} (hop : w.toNat / 2 ^ 32 = 4) : decode w = .ok .tick := by
  rw [operandAssembly w, if_neg (by omega), if_neg (by omega), if_neg (by omega), if_pos hop]

theorem timedOut_iff : timedOut s = true ↔ s.activeValid = true ∧ s.repeatDeadline.toNat < s.nowMs.toNat := by
  simp [timedOut, deadlinePassed_iff]

theorem tick_of_unbound (hb : s.protoBound = false) : exec .tick s = .next { s with response := 0x80 } :=
  (execTick_eq s).trans (by rw [if_pos hb]; rfl)

theorem tick_of_timedOut (hb : s.protoBound = true) (ht : timedOut s = true) :
    exec .tick s = .next { s with
      eventOut := s.eventOut ++ [.released s.activeCode], bitsReceived := 0, activeValid := false, response := 1 } :=
  (execTick_eq s).trans (by rw [if_neg (by simp [hb]), if_pos ht])

theorem tick_of_not_timedOut (hb : s.protoBound = true) (ht : timedOut s = false) :
    exec .tick s = .next { s with response := 0 } :=
  (execTick_eq s).trans (by rw [if_neg (by simp [hb]), if_neg (by simp [ht])])

/-! The held button (R20) -/

theorem State.heldCode_eq_some : s.heldCode = some c ↔ s.activeValid = true ∧ s.activeCode = c := by
  cases hv : s.activeValid <;> simp [State.heldCode, hv]

theorem State.heldCode_eq_none : s.heldCode = none ↔ s.activeValid = false := by
  cases hv : s.activeValid <;> simp [State.heldCode, hv]

theorem State.heldCode_congr (hv : t.activeValid = s.activeValid) (hc : t.activeCode = s.activeCode) :
    t.heldCode = s.heldCode := by
  simp only [State.heldCode, hv, hc]

theorem timedOut_of_none_held (h : s.heldCode = none) : timedOut s = false := by
  simp [timedOut, State.heldCode_eq_none.mp h]

theorem pressEvents_of_held (h : s.heldCode = some c) : pressEvents c s = [] := by
  obtain ⟨hv, hc⟩ := State.heldCode_eq_some.mp h
  simp [pressEvents, hv, hc]

theorem pressEvents_of_none_held (h : s.heldCode = none) : pressEvents c s = [.pressed c] := by
  simp [pressEvents, State.heldCode_eq_none.mp h]

/-! One operation by its outcome -/

/-- Only a bound SPACE hands Derive an outcome, and its next state is the one Derive leaves (R55). -/
theorem exec_eq_next_of_derived (h : exec i s = .next t) (ho : opOutcome i s ≠ .incomplete) :
    ∃ us u r, deriveEvents (opOutcome i s) (decodeClass (spaceClass us s) s).1 = some u ∧ t = u.respond r := by
  cases i with
  | space us =>
    rcases execSpace_eq_next.mp h with ⟨hb, -⟩ | ⟨hb, u, hu, rfl⟩
    · simp [opOutcome, hb] at ho
    · exact ⟨us, u, _, by simpa only [opOutcome, hb, if_true] using hu, rfl⟩
  | _ => exact absurd rfl ho

/-- REPEAT presses and releases nothing (R86). -/
theorem exec_of_repeat (h : exec i s = .next t) (ho : opOutcome i s = .repeatCode) :
    t.heldCode = s.heldCode ∧ t.eventOut = s.eventOut := by
  obtain ⟨us, u, r, hu, rfl⟩ := exec_eq_next_of_derived h (by simp [ho])
  rw [ho] at hu
  obtain ⟨d, -, rfl⟩ := deriveEvents_repeat_eq_some.mp hu
  obtain ⟨n, hi, lo, a, k, hdec⟩ := decodeClass_frame (spaceClass us s) s
  rw [hdec]
  exact ⟨rfl, rfl⟩

/-- An operation with no DATAGRAM outcome, but for a TICK that times out, presses and releases nothing. -/
theorem exec_of_not_datagram (h : exec i s = .next t) (ho : opOutcome i s ≠ .datagram)
    (ht : i = .tick → timedOut s = false) : t.heldCode = s.heldCode ∧ t.eventOut = s.eventOut := by
  cases hout : opOutcome i s with
  | incomplete =>
    obtain ⟨hv, hc, he⟩ := exec_of_incomplete h hout ht
    exact ⟨State.heldCode_congr hv hc, he⟩
  | repeatCode => exact exec_of_repeat h hout
  | datagram => exact absurd hout ho

/-- DATAGRAM announces itself, presses its code as far as that is not held already, and leaves it held (R85). -/
theorem exec_of_datagram (h : exec i s = .next t) (ho : opOutcome i s = .datagram) :
    t.heldCode = some (buttonCodeOf t.commandField) ∧
      t.eventOut = s.eventOut ++ .datagramReady :: pressEvents (buttonCodeOf t.commandField) s := by
  obtain ⟨us, u, r, hu, rfl⟩ := exec_eq_next_of_derived h (by simp [ho])
  rw [ho] at hu
  obtain ⟨d, -, rfl⟩ := deriveEvents_datagram_eq_some.mp hu
  obtain ⟨n, hi, lo, a, k, hdec⟩ := decodeClass_frame (spaceClass us s) s
  rw [hdec, pressCode_eq, List.append_assoc]
  exact ⟨rfl, rfl⟩

/-- INCOMPLETE leaves the deadline as it is (R56). -/
theorem repeatDeadline_of_incomplete (h : exec i s = .next t) (ho : opOutcome i s = .incomplete) :
    t.repeatDeadline = s.repeatDeadline := by
  cases i with
  | space us =>
    rcases execSpace_eq_next.mp h with ⟨-, rfl⟩ | ⟨hb, -⟩
    · rfl
    · obtain ⟨n, hi, lo, a, k, hdec⟩ := decodeClass_frame (spaceClass us s) s
      rw [space_eq_of_incomplete hb h ho, hdec]
      rfl
  | _ =>
    obtain ⟨-, -, -, -, hd, -⟩ := (effect_of_exec h).decoded_of_not_space nofun
    exact hd

/-! One timed operation -/

theorem execTimed_of_not_datagram (h : execTimed x s = .next t) (ho : opOutcome x.1 s ≠ .datagram)
    (ht : x.1 = .tick → timedOut (s.accept x.2 s.inbox) = false) :
    t.heldCode = s.heldCode ∧ t.eventOut = s.eventOut :=
  exec_of_not_datagram (s := s.accept x.2 s.inbox) h (by simpa using ho) ht

theorem execTimed_of_datagram (h : execTimed x s = .next t) (ho : opOutcome x.1 s = .datagram) :
    t.heldCode = some (buttonCodeOf t.commandField) ∧
      t.eventOut = s.eventOut ++ .datagramReady :: pressEvents (buttonCodeOf t.commandField) s :=
  exec_of_datagram (s := s.accept x.2 s.inbox) h (by simpa using ho)

/-! Runs, one operation at a time -/

theorem runTimed_cons_of_next (h : execTimed x s = .next t) : runTimed (x :: xs) s = runTimed xs t := by
  rw [runTimed, h]

theorem runTimed_cons_eq_next {v : State} :
    runTimed (x :: xs) s = .next v ↔ ∃ t, execTimed x s = .next t ∧ runTimed xs t = .next v := by
  cases h : execTimed x s <;> simp [runTimed, h]

theorem datagramCount_cons_of_next (h : execTimed x s = .next t) :
    datagramCount (x :: xs) s = (if opOutcome x.1 s = .datagram then 1 else 0) + datagramCount xs t := by
  rw [datagramCount, h]

theorem quietRun_cons : quietRun (x :: xs) s = true ↔
    ∃ t, execTimed x s = .next t ∧ opOutcome x.1 s = .incomplete ∧
      (x.1 = .tick → deadlinePassed x.2 s.repeatDeadline = false) ∧ quietRun xs t = true := by
  cases h : execTimed x s <;> simp [quietRun, h, and_assoc, imp_iff_not_or]

theorem heldRun_cons : heldRun c (x :: xs) s = true ↔
    ∃ t, execTimed x s = .next t ∧ (opOutcome x.1 s = .datagram → buttonCodeOf t.commandField = c) ∧
      (x.1 = .tick → timedOut (s.accept x.2 s.inbox) = false) ∧ heldRun c xs t = true := by
  cases h : execTimed x s <;> simp [heldRun, h, and_assoc, imp_iff_not_or]

/-! Runs (R93) -/

/-- A quiet run emits nothing and leaves the binding, the held button and its deadline (R93 item 1). -/
theorem runTimed_of_quietRun (hq : quietRun ops s = true) (hb : s.protoBound = true) :
    ∃ t, runTimed ops s = .next t ∧ t.protoBound = true ∧ t.heldCode = s.heldCode ∧
      t.repeatDeadline = s.repeatDeadline ∧ t.eventOut = s.eventOut := by
  induction ops generalizing s with
  | nil => exact ⟨s, rfl, hb, rfl, rfl, rfl⟩
  | cons x xs ih =>
    obtain ⟨t, hx, ho, ht, hxs⟩ := quietRun_cons.mp hq
    have htick (hi : x.1 = .tick) : timedOut (s.accept x.2 s.inbox) = false := by simp [timedOut, ht hi]
    obtain ⟨hheld, hout⟩ := execTimed_of_not_datagram hx (by simp [ho]) htick
    have hd : t.repeatDeadline = s.repeatDeadline :=
      repeatDeadline_of_incomplete (s := s.accept x.2 s.inbox) hx (by simpa using ho)
    obtain ⟨hb', -⟩ := (effect_of_exec hx).binding_of_bound hb
    rw [runTimed_cons_of_next hx, ← hheld, ← hd, ← hout]
    exact ih hxs hb'

/-- While `c` is held, datagrams of `c` press and release nothing. -/
theorem runTimed_of_heldRun_held (hr : heldRun c ops s = true) (hs : s.heldCode = some c) :
    ∃ t es, runTimed ops s = .next t ∧ t.eventOut = s.eventOut ++ es ∧ pressReleaseEvents es = [] ∧
      t.heldCode = some c := by
  induction ops generalizing s with
  | nil => exact ⟨s, [], rfl, (List.append_nil _).symm, rfl, hs⟩
  | cons x xs ih =>
    obtain ⟨t, hx, hc, ht, hxs⟩ := heldRun_cons.mp hr
    rw [runTimed_cons_of_next hx]
    by_cases ho : opOutcome x.1 s = .datagram
    · obtain ⟨hheld, hout⟩ := execTimed_of_datagram hx ho
      rw [hc ho] at hheld hout
      rw [pressEvents_of_held hs] at hout
      obtain ⟨v, es, hv, he, hpr, hvheld⟩ := ih hxs hheld
      exact ⟨v, .datagramReady :: es, hv, by rw [he, hout, List.append_assoc]; rfl, hpr, hvheld⟩
    · obtain ⟨hheld, hout⟩ := execTimed_of_not_datagram hx ho ht
      rw [← hout]
      exact ih hxs (hheld.trans hs)

/-- With no button held, the first datagram of `c` presses it, once (R93 item 2). -/
theorem runTimed_of_heldRun_none_held (hr : heldRun c ops s = true) (hs : s.heldCode = none)
    (hn : 0 < datagramCount ops s) :
    ∃ t es, runTimed ops s = .next t ∧ t.eventOut = s.eventOut ++ es ∧ pressReleaseEvents es = [.pressed c] ∧
      t.heldCode = some c := by
  induction ops generalizing s with
  | nil => exact absurd hn (Nat.lt_irrefl 0)
  | cons x xs ih =>
    obtain ⟨t, hx, hc, ht, hxs⟩ := heldRun_cons.mp hr
    rw [runTimed_cons_of_next hx]
    by_cases ho : opOutcome x.1 s = .datagram
    · obtain ⟨hheld, hout⟩ := execTimed_of_datagram hx ho
      rw [hc ho] at hheld hout
      rw [pressEvents_of_none_held hs] at hout
      obtain ⟨v, es, hv, he, hpr, hvheld⟩ := runTimed_of_heldRun_held hxs hheld
      exact ⟨v, .datagramReady :: .pressed c :: es, hv, by rw [he, hout, List.append_assoc]; rfl,
        congrArg (Event.pressed c :: ·) hpr, hvheld⟩
    · obtain ⟨hheld, hout⟩ := execTimed_of_not_datagram hx ho ht
      rw [datagramCount_cons_of_next hx, if_neg ho, Nat.zero_add] at hn
      rw [← hout]
      exact ih hxs (hheld.trans hs) hn

/-- With no button held, a run without a DATAGRAM outcome presses nothing (R93 item 4). -/
theorem runTimed_of_no_datagram {v : State} (hr : runTimed ops s = .next v) (hs : s.heldCode = none)
    (hn : datagramCount ops s = 0) : v.heldCode = none ∧ v.eventOut = s.eventOut := by
  induction ops generalizing s with
  | nil => cases hr; exact ⟨hs, rfl⟩
  | cons x xs ih =>
    obtain ⟨t, hx, hxs⟩ := runTimed_cons_eq_next.mp hr
    rw [datagramCount_cons_of_next hx, Nat.add_eq_zero_iff] at hn
    obtain ⟨hhead, htail⟩ := hn
    have ho : opOutcome x.1 s ≠ .datagram := fun ho => by simp [ho] at hhead
    obtain ⟨hheld, hout⟩ := execTimed_of_not_datagram hx ho fun _ => timedOut_of_none_held hs
    rw [← hout]
    exact ih hxs (hheld.trans hs) htail

/-! The dispatcher (R91) -/

theorem Matcher.accepts_iff {m : Matcher} : m.accepts c = true ↔ m = .any ∨ m = .specific c := by
  cases m <;> simp [Matcher.accepts]

/-- The callbacks of a list with one more handler: those before, then the new one if it accepts the code. -/
theorem callbacks_append_handler (hs : List Handler) (m : Matcher) (k : Nat) (c : Code) :
    ((hs ++ [Handler.mk m k]).filter (fun h => h.matcher.accepts c)).map Handler.callback =
      (hs.filter (fun h => h.matcher.accepts c)).map Handler.callback ++
        (if m = .any ∨ m = .specific c then [k] else []) := by
  rw [List.filter_append, List.map_append]
  congr 1
  by_cases h : m = .any ∨ m = .specific c
  · rw [if_pos h]
    simp [Matcher.accepts_iff.mpr h]
  · rw [if_neg h]
    simp [Bool.eq_false_iff.mpr (mt Matcher.accepts_iff.mp h)]

end

/-! The obligations -/

/-- Settles O51: a quiet run keeps the hold and its deadline, so the late TICK finds the button timed out. -/
theorem firstLateTickReleases : Obligations.FirstLateTickReleases := by
  intro s ops now hb hv hq hlate
  obtain ⟨t, hrun, hbt, hheld, hd, hout⟩ := runTimed_of_quietRun hq hb
  obtain ⟨hvt, hct⟩ := State.heldCode_eq_some.mp (hheld.trans (State.heldCode_eq_some.mpr ⟨hv, rfl⟩))
  have hto : timedOut (t.accept now t.inbox) = true := timedOut_iff.mpr ⟨hvt, hd ▸ hlate⟩
  refine ⟨t, _, hrun, hout, tick_of_timedOut hbt hto, ?_, rfl, rfl⟩
  simp [hout, hct]

/-- Settles O52: the first datagram presses, and from then on the code is held. -/
theorem heldButtonPressedOnce : Obligations.HeldButtonPressedOnce := by
  intro s c ops hv hr hn
  obtain ⟨t, es, hrun, hout, hpr, hheld⟩ := runTimed_of_heldRun_none_held hr (State.heldCode_eq_none.mpr hv) hn
  exact ⟨t, es, hrun, hout, hpr, State.heldCode_eq_some.mp hheld⟩

/-- Settles O53: the release leaves no button held, and so does the run, so the datagram finds none held. -/
theorem pressAgainAfterTimeout : Obligations.PressAgainAfterTimeout := by
  intro s t v ops hb hv hlate htick hrun hn
  cases (tick_of_timedOut hb (timedOut_iff.mpr ⟨hv, hlate⟩)).symm.trans htick
  obtain ⟨hnone, hout⟩ := runTimed_of_no_datagram hrun rfl hn
  refine ⟨State.heldCode_eq_none.mp hnone, hout, fun us now u hu ho hcode => ?_⟩
  have hsame : buttonCodeOf u.commandField = s.activeCode :=
    BitVec.eq_of_toNat_eq ((buttonCodeOf_toNat _).trans hcode)
  obtain ⟨hheld, hevents⟩ := execTimed_of_datagram hu ho
  rw [hsame] at hheld hevents
  rw [pressEvents_of_none_held hnone] at hevents
  exact ⟨hevents, State.heldCode_eq_some.mp hheld⟩

/-- Settles O3: TICK has an unbound, a timed-out and an idle case. -/
theorem tickReleasesByTimeout : Obligations.TickReleasesByTimeout := by
  refine ⟨fun w hop => decode_of_tick_opcode hop, fun s =>
    ⟨tick_of_unbound, fun hb hv hlate => ?_, fun hb hidle => ?_⟩⟩
  · exact tick_of_timedOut hb (timedOut_iff.mpr ⟨hv, hlate⟩)
  · refine tick_of_not_timedOut hb (Bool.eq_false_iff.mpr fun hto => ?_)
    obtain ⟨hv, hlate⟩ := timedOut_iff.mp hto
    rcases hidle with hnone | htimely
    · exact absurd hv (Bool.eq_false_iff.mp hnone)
    · exact Nat.not_lt.mpr htimely hlate

/-- Settles O56: a registration appends to the list of its action and leaves the other list. -/
theorem handlersRunInRegistrationOrder : Obligations.HandlersRunInRegistrationOrder := by
  refine ⟨fun e => by cases e <;> rfl, fun r m a k c => ?_⟩
  cases a with
  | pressed | released =>
    simp only [Registry.register, Registry.dispatch, callbacks_append_handler]
    simp

end Sys2Proof.Machine
end

section
/-! The session operations (43_session.md R97 to R101): the responses of the reads as numbers, and the digits of the
hex rendering. -/

namespace Sys2Proof.Machine

/-! The reads, with their responses as numbers (R98 to R100) -/

/-- A code responds as the quotient of its command field by 256. -/
theorem codeResponse_buttonCodeOf (k : Field16) :
    codeResponse (buttonCodeOf k) = BitVec.ofNat 32 (k.toNat / 256) := by
  rw [← buttonCodeOf_toNat, BitVec.ofNat_toNat]
  rfl

theorem datagramWord_eq_ofNat (a k : Field16) :
    datagramWord a k = BitVec.ofNat 32 (a.toNat * 65536 + k.toNat) := by
  rw [← datagramWord_toNat, BitVec.ofNat_toNat, BitVec.setWidth_eq]

/-- RD_DATAGRAM creates the session and responds (R99). -/
theorem execRdDatagram_eq (s : State) : execRdDatagram s =
    .next { s with
      sessionValid := true
      response := BitVec.ofNat 32 (s.addressField.toNat * 65536 + s.commandField.toNat) } := by
  rw [← datagramWord_eq_ofNat]
  rfl

/-- RD_RXFLAG creates the session, clears the flag and responds with its old value (R100). -/
theorem execRdRxflag_eq (s : State) : execRdRxflag s =
    .next { s with sessionValid := true, hasUnread := false, response := if s.hasUnread then 1 else 0 } := rfl

/-! Digits of the hex rendering (R101) -/

/-- A nibble's digit is its entry in the table of uppercase digits. -/
theorem getElem?_hexDigits : ∀ n < 16, "0123456789ABCDEF".toList[n]? = some (hexDigit n) := by
  decide

/-- A nibble of a 16-bit half of a response, as a number. -/
theorem toNat_nibble_of_half (w : Response) (start : Nat) {k : Nat} (hk : k + 4 ≤ 16) :
    ((w.extractLsb' start 16).extractLsb' k 4).toNat = w.toNat / 2 ^ (start + k) % 16 := by
  have hnibble : (w.extractLsb' start 16).extractLsb' k 4 = w.extractLsb' (start + k) 4 := by
    apply BitVec.eq_of_getLsbD_eq
    intro i hi
    have hhalf : k + i < 16 := by omega
    simp [hi, hhalf, Nat.add_assoc]
  rw [hnibble, BitVec.extractLsb'_toNat, Nat.shiftRight_eq_div_pow]

/-- The rendering is `0x` and the digits of nibbles 7 down to 0. -/
theorem toList_hexOfDatagram (w : Response) :
    (hexOfDatagram w).toList =
      '0' :: 'x' :: (List.range 8).map (fun j => hexDigit (w.toNat / 16 ^ (7 - j) % 16)) := by
  simp (disch := decide) only [hexOfDatagram, hexField, String.toList_ofList, toNat_nibble_of_half]
  rfl

/-! The obligations -/

/-- Settles O1: CONNECT binds when unbound; after that, and in every bound state, it only makes sure the session
exists. -/
theorem connectFirstBindingWins : Obligations.ConnectFirstBindingWins := by
  refine ⟨fun w hop => by rw [operandAssembly w, if_pos hop], fun s => ⟨rfl, rfl⟩, fun p q pin other s =>
    ⟨fun hunbound => ⟨?_, execConnect_eq q other _⟩, fun hbound => ?_⟩⟩
  · exact (execConnect_eq p pin s).trans (by rw [hunbound]; rfl)
  · exact (execConnect_eq p pin s).trans (by rw [if_pos hbound])

/-- Settles O4: RD_BUTTON only responds, by whether the session exists. -/
theorem rdButtonReturnsLastCode : Obligations.RdButtonReturnsLastCode := by
  refine ⟨fun w hop => by rw [operandAssembly w, hop]; rfl, fun s => ⟨fun hnone => ?_, fun hsession => ?_⟩⟩
  · exact (execRdButton_eq s).trans (by rw [if_neg (by simp [hnone])]; rfl)
  · exact (execRdButton_eq s).trans (by rw [if_pos hsession, codeResponse_buttonCodeOf]; rfl)

/-- Settles O5: the response is the datagram word, whose fields the read does not write. -/
theorem rdDatagramPacksAddressHigh : Obligations.RdDatagramPacksAddressHigh :=
  ⟨fun w hop => by rw [operandAssembly w, hop]; rfl, fun s => ⟨_, execRdDatagram_eq s, rfl, execRdDatagram_eq _⟩⟩

/-- Settles O6: the first read clears the flag it returns, so the second returns 0. -/
theorem rdRxflagReadsOnce : Obligations.RdRxflagReadsOnce :=
  ⟨fun w hop => by rw [operandAssembly w, hop]; rfl, fun s => ⟨_, execRdRxflag_eq s, rfl, execRdRxflag_eq _⟩⟩

/-- Settles O57: digit `j` of the rendering is that of nibble `7 - j`, and the session is RD_DATAGRAM's. -/
theorem hexRenderingDigits : Obligations.HexRenderingDigits := by
  intro s j hj
  have hdigits := toList_hexOfDatagram (datagramWord s.addressField s.commandField)
  rw [datagramWord_toNat] at hdigits
  refine ⟨?_, ?_, ?_, rfl⟩
  · simp [lastDatagramHex, hdigits]
  · simp [lastDatagramHex, hdigits]
  · rw [getElem?_hexDigits _ (Nat.mod_lt _ (by decide))]
    simp [lastDatagramHex, hdigits, Nat.add_comm 2 j, hj]

end Sys2Proof.Machine
end

section
/-! Where steps stop (60_exceptions.md R112, R121; 70_reset_and_hazards.md R128): each cause of a refusal as an
equivalence, and schedules that keep the environment's duties, which meet none of the causes. -/

namespace Sys2Proof.Machine

section
variable {i : Instr} {us : Duration} {s t : State} {c : Command} {rest : List Input} {r : Refusal}

/-! The reserved word (R45) -/

/-- A word is no operation exactly when its `op` is 0, or 8 and above, and the decoder names that `op`. -/
theorem decode_eq_reserved_iff {w : CommandWord} {op : Opcode} : decode w = .error (.reservedOpcode op) ↔
    (w.toNat / 2 ^ 32 = 0 ∨ 8 ≤ w.toNat / 2 ^ 32) ∧ op = BitVec.ofNat 4 (w.toNat / 2 ^ 32) := by
  constructor
  · intro h
    rw [operandAssembly w] at h
    split_ifs at h
    cases h
    exact ⟨by omega, rfl⟩
  · rintro ⟨hop, rfl⟩
    rw [decode_of_reserved hop, opField_eq_ofNat]

/-! Time wrap-around (R85, D4) -/

/-- SPACE is refused exactly when it is not ignored and Derive refuses. -/
theorem execSpace_eq_timeWrap_iff : execSpace us s = .refused .timeWrap ↔ s.protoBound = true ∧
    deriveEvents (decodeClass (spaceClass us s) s).2 (decodeClass (spaceClass us s) s).1 = none := by
  unfold execSpace
  cases s.protoBound
  · simp
  · cases deriveEvents (decodeClass (spaceClass us s) s).2 (decodeClass (spaceClass us s) s).1 <;> simp

theorem opOutcome_space_ne_incomplete : opOutcome (.space us) s ≠ .incomplete ↔
    s.protoBound = true ∧ (decodeClass (spaceClass us s) s).2 ≠ .incomplete := by
  cases hb : s.protoBound <;> simp [opOutcome, hb]

theorem exec_ne_refused_of_not_space (hi : ∀ us, i ≠ .space us) : exec i s ≠ .refused r := by
  rcases exec_next_or_timeWrap i s with ⟨t, ht⟩ | ⟨⟨us, rfl⟩, -⟩
  · simp [ht]
  · exact absurd rfl (hi us)

/-- An operation is refused exactly when it hands Derive an outcome whose deadline would reach `2 ^ TIME_WIDTH`. -/
theorem exec_eq_timeWrap_iff : exec i s = .refused .timeWrap ↔
    opOutcome i s ≠ .incomplete ∧ 2 ^ 32 ≤ s.nowMs.toNat + s.cfg.repeatTimeoutMs := by
  cases i with
  | space us =>
    obtain ⟨n, hi, lo, a, k, hdec⟩ := decodeClass_frame (spaceClass us s) s
    rw [show exec (.space us) s = execSpace us s from rfl, execSpace_eq_timeWrap_iff, deriveEvents_eq_none,
      opOutcome_space_ne_incomplete, hdec, and_assoc]
  | _ => exact iff_of_false (exec_ne_refused_of_not_space nofun) fun ⟨hout, _⟩ => hout rfl

/-- By its sum and the counter, a SPACE yields REPEAT or DATAGRAM (R51, R61). -/
theorem opOutcome_space_ne_incomplete_iff (hw : s.cfg.wf = true) : opOutcome (.space us) s ≠ .incomplete ↔
    s.protoBound = true ∧
      ((s.cfg.tSync ≤ s.markLatch.toNat + us.toNat ∧ s.markLatch.toNat + us.toNat < s.cfg.tLong) ∨
       (s.markLatch.toNat + us.toNat < s.cfg.tSync ∧ s.bitsReceived.toNat = 31)) := by
  rw [opOutcome_space_ne_incomplete]
  refine and_congr_right fun _ => ?_
  by_cases hsync : s.markLatch.toNat + us.toNat < s.cfg.tSync
  · rw [spaceClass_of_bit hsync, decodeClass_bit, foldBit_outcome]
    simp [hsync, Nat.not_le.mpr hsync]
  · by_cases hlong : s.markLatch.toNat + us.toNat < s.cfg.tLong
    · rw [spaceClass_of_repeat hw (Nat.not_lt.mp hsync) hlong]
      simp [decodeClass, hsync, hlong, Nat.not_lt.mp hsync]
    · rw [spaceClass_of_long hw (Nat.not_lt.mp hlong)]
      simp [decodeClass, hsync, hlong]

/-! The sink (R128 item 4) -/

/-- Operations only append events, so the sink blocks one exactly when it does not accept and the output changes. -/
theorem sinkBlocks_iff (h : exec i (s.accept c.now rest) = .next t) :
    sinkBlocks c s t = true ↔ c.sinkAccepts = false ∧ s.eventOut ≠ t.eventOut := by
  obtain ⟨new, hnew, -⟩ := exec_withEvents h []
  rw [State.accept_eventOut] at hnew
  simp [sinkBlocks, hnew, List.length_pos_iff]

/-! One command -/

theorem runCommand_of_overlaps (hov : c.overlaps = true) :
    runCommand c rest s = .refused .overlappingOperation := if_pos hov

theorem runCommand_of_timeDecreased (hov : c.overlaps = false) (hnow : c.now.toNat < s.nowMs.toNat) :
    runCommand c rest s = .refused .timeDecreased := by
  simp [runCommand, hov, hnow]

/-- An operation that is refused is refused whatever the sink. -/
theorem runCommand_of_exec_refused (hov : c.overlaps = false) (hnow : s.nowMs.toNat ≤ c.now.toNat)
    (hd : decode c.word = .ok i) (he : exec i (s.accept c.now rest) = .refused r) :
    runCommand c rest s = .refused r := by
  rw [runCommand_of_decode hov hnow hd, he]
  rfl

theorem runCommand_of_sinkBlocks (hov : c.overlaps = false) (hnow : s.nowMs.toNat ≤ c.now.toNat)
    (hd : decode c.word = .ok i) (he : exec i (s.accept c.now rest) = .next t) (hs : sinkBlocks c s t = true) :
    runCommand c rest s = .refused .sinkDoesNotAccept := by
  rw [runCommand_of_decode hov hnow hd, he]
  exact if_pos hs

/-! The next input -/

theorem runNext_of_nil (h : s.inbox = []) : runNext s = .next s := by
  simp only [runNext, h]

theorem runNext_of_reset (h : s.inbox = .reset :: rest) : runNext s = .next (s.applyReset rest) := by
  simp only [runNext, h]

theorem step_eq_refused_iff (hw : s.cfg.wf = true) : step s = .refused r ↔
    ∃ c rest, s.inbox = .command c :: rest ∧ runCommand c rest s = .refused r := by
  rw [step_of_wf hw]
  refine ⟨runNext_eq_refused, ?_⟩
  rintro ⟨c, rest, hin, h⟩
  rw [runNext_of_command hin, h]

/-! Schedules that keep the duties (R128) -/

/-- What a dutiful schedule keeps from step to step: a good configuration, and waiting inputs that keep the time,
overlap and sink duties and name only operations. -/
structure State.ScheduleInv (s : State) : Prop where
  config : s.cfg.wf = true
  duties : scheduleWf s.nowMs s.inbox = true
  operations : ∀ c, Input.command c ∈ s.inbox → ∃ i, decode c.word = .ok i

theorem scheduleWf_command {before : Time} : scheduleWf before (.command c :: rest) = true ↔
    c.dutiful before = true ∧ scheduleWf c.now rest = true := Bool.and_eq_true_iff

/-- R128 item 2 for the operation that is next. -/
theorem State.deadlineFits_iff (hin : s.inbox = .command c :: rest) (hd : decode c.word = .ok i) :
    s.deadlineFits = true ↔ opOutcome i s = .incomplete ∨ c.now.toNat + s.cfg.repeatTimeoutMs < 2 ^ 32 := by
  simp only [State.deadlineFits, hin, hd, Bool.or_eq_true, beq_iff_eq, decide_eq_true_iff, timeModulus]

/-- Of the causes of a refusal a dutiful operation can meet only time wrap-around, which R128 item 2 rules out. -/
theorem exec_next_of_deadlineFits (hin : s.inbox = .command c :: rest) (hd : decode c.word = .ok i)
    (hfits : s.deadlineFits = true) : ∃ t, exec i (s.accept c.now rest) = .next t := by
  rcases exec_next_or_timeWrap i (s.accept c.now rest) with hnext | ⟨-, hwrap⟩
  · exact hnext
  · obtain ⟨hout, hlate⟩ := exec_eq_timeWrap_iff.mp hwrap
    rw [opOutcome_accept] at hout
    rcases (State.deadlineFits_iff hin hd).mp hfits with hinc | hearly
    · exact absurd hinc hout
    · exact absurd hlate (Nat.not_le.mpr hearly)

/-- A step of a dutiful schedule goes on, and leaves a dutiful schedule. -/
theorem State.ScheduleInv.step_next (hs : s.ScheduleInv) (hfits : s.deadlineFits = true) :
    ∃ t, step s = .next t ∧ t.ScheduleInv := by
  obtain ⟨hw, hduties, hops⟩ := hs
  cases hin : s.inbox with
  | nil => exact ⟨s, (step_of_wf hw).trans (runNext_of_nil hin), hw, hduties, hops⟩
  | cons x rest =>
    rw [hin] at hduties hops
    have hrest : ∀ c, Input.command c ∈ rest → ∃ i, decode c.word = .ok i :=
      fun c hc => hops c (List.mem_cons_of_mem _ hc)
    cases x with
    | reset => exact ⟨s.applyReset rest, (step_of_wf hw).trans (runNext_of_reset hin), hw, hduties, hrest⟩
    | command c =>
      obtain ⟨hc, hlater⟩ := scheduleWf_command.mp hduties
      obtain ⟨i, hd⟩ := hops c List.mem_cons_self
      obtain ⟨t, he⟩ := exec_next_of_deadlineFits hin hd hfits
      obtain ⟨hcfg, hnow, hinbox⟩ := (effect_of_exec he).inputs
      refine ⟨t, (step_of_dutiful hw hin hc hd).trans he, ?_, ?_, ?_⟩
      · rw [hcfg]; exact hw
      · rw [hnow, hinbox]; exact hlater
      · rw [hinbox]; exact hrest

theorem run_succ_of_step {M : Host.Core} {s t : M.State} (h : M.step s = .next t) (k : Nat) :
    M.run (k + 1) s = M.run k t := by
  rw [Host.Core.run, h]

/-- A dutiful schedule runs on for as long as the deadlines of R128 item 2 fit along the way. -/
theorem State.ScheduleInv.run_next (k : Nat) (hs : s.ScheduleInv)
    (hfits : ∀ (j : Nat) (t : State), j < k → Host.Core.run Sys2Proof.core j s = .next t → t.deadlineFits = true) :
    ∃ t, Host.Core.run Sys2Proof.core k s = .next t := by
  induction k generalizing s with
  | zero => exact ⟨s, rfl⟩
  | succ k ih =>
    obtain ⟨t, hst, ht⟩ := hs.step_next (hfits 0 s (Nat.succ_pos k) rfl)
    have hrun := run_succ_of_step (M := Sys2Proof.core) hst
    rw [hrun k]
    exact ih ht fun j u hj hu => hfits (j + 1) u (Nat.succ_lt_succ hj) ((hrun j).trans hu)

end

/-! The obligations -/

/-- Settles O35: the refusals of the next command one by one, each with its cause in the statement's numbers; and each
cause, once the guards before it are passed, does refuse. -/
theorem stepRefusalCauses : Obligations.StepRefusalCauses := by
  intro s r hw
  rw [step_eq_refused_iff hw]
  refine exists_congr fun c => exists_congr fun rest => and_congr_right fun _ => ⟨fun h => ?_, ?_⟩
  · rcases runCommand_eq_refused h with ⟨hov, rfl⟩ | ⟨hov, hpast, rfl⟩ | ⟨hov, hnow, hcause⟩
    · exact .inl ⟨hov, rfl⟩
    · exact .inr (.inl ⟨hov, hpast, rfl⟩)
    · rcases hcause with ⟨op, hd, rfl⟩ | ⟨i, hd, ⟨⟨us, rfl⟩, he, rfl⟩ | ⟨t, he, hs, rfl⟩⟩
      · obtain ⟨hop, rfl⟩ := decode_eq_reserved_iff.mp hd
        exact .inr (.inr (.inl ⟨hov, hnow, hop, rfl⟩))
      · obtain ⟨hout, hlate⟩ := exec_eq_timeWrap_iff.mp he
        obtain ⟨hb, hsum⟩ := (opOutcome_space_ne_incomplete_iff (s := s.accept c.now rest) hw).mp hout
        exact .inr (.inr (.inr (.inl ⟨hov, hnow, hb, ⟨us, hd, hsum⟩, hlate, rfl⟩)))
      · obtain ⟨hsink, hemits⟩ := (sinkBlocks_iff he).mp hs
        exact .inr (.inr (.inr (.inr ⟨hov, hnow, hsink, ⟨i, t, hd, he, hemits⟩, rfl⟩)))
  · rintro (⟨hov, rfl⟩ | ⟨hov, hpast, rfl⟩ | ⟨hov, hnow, hop, rfl⟩ | ⟨hov, hnow, hb, ⟨us, hd, hsum⟩, hlate, rfl⟩ |
      ⟨hov, hnow, hsink, ⟨i, t, hd, he, hemits⟩, rfl⟩)
    · exact runCommand_of_overlaps hov
    · exact runCommand_of_timeDecreased hov hpast
    · exact runCommand_of_decode_error hov hnow (decode_eq_reserved_iff.mpr ⟨hop, rfl⟩)
    · have hout := (opOutcome_space_ne_incomplete_iff (s := s.accept c.now rest) hw).mpr ⟨hb, hsum⟩
      exact runCommand_of_exec_refused hov hnow hd (exec_eq_timeWrap_iff.mpr ⟨hout, hlate⟩)
    · exact runCommand_of_sinkBlocks hov hnow hd he ((sinkBlocks_iff he).mpr ⟨hsink, hemits⟩)

/-- Settles O36: the duties and the names of the waiting inputs are kept by every step, and leave time wrap-around as
the one cause of a refusal, which the premise excludes before each step. -/
theorem dutifulScheduleNeverStops : Obligations.DutifulScheduleNeverStops :=
  fun _ k hw hduties hops hfits => State.ScheduleInv.run_next k ⟨hw, hduties, hops⟩ hfits

/-- Settles O32: with nothing presented the step goes on to the same state. -/
theorem stepHoldsStateWhenIdle : Obligations.StepHoldsStateWhenIdle :=
  fun _ hw hin => (step_of_wf hw).trans (runNext_of_nil hin)

end Sys2Proof.Machine
end

section
/-! Reset and the derived hazards (70_reset_and_hazards.md, sections 1 and 3): bits folded after a frame and bits that
fall short of one, the data-bit SPACE as a whole answer, and the two orders of a late TICK and a completing SPACE. -/

namespace Sys2Proof.Machine

section
variable {us : Duration} {s u v : State} {out : PulseOutcome} {c : Code} {b : Bool} {bs : List Bool}

/-! Bits beyond a frame, and bits short of one (R130, R132) -/

/-- Behind position 32 a bit leaves the counter at overrun, where the next bit finds it (R58). -/
theorem foldBits_of_overrun (h32 : 32 ≤ s.bitsReceived.toNat) (hne : bs ≠ []) :
    (foldBits bs s).1 = { s with bitsReceived := 33 } := by
  induction bs generalizing s with
  | nil => exact absurd rfl hne
  | cons b bs ih =>
    rw [foldBits, foldBit_of_overrun h32]
    cases bs with
    | nil => rfl
    | cons c cs => exact ih (by simp) (List.cons_ne_nil c cs)

/-- A bit before position 32 that does not stuff is counted and shifted into one of the accumulators. -/
theorem foldBit_of_unstuffed (h31 : s.bitsReceived.toNat < 31)
    (hs : stuffs s.proto b (s.bitsReceived.toNat + 1) = false) :
    ∃ hi lo, foldBit b s =
      ({ s with hiWord := hi, loWord := lo, bitsReceived := BitVec.ofNat 6 (s.bitsReceived.toNat + 1) },
        .incomplete) := by
  by_cases h16 : s.bitsReceived.toNat + 1 ≤ 16
  · exact ⟨_, s.loWord, foldBit_of_high h16 hs⟩
  · exact ⟨s.hiWord, _, foldBit_of_low (by omega) h31⟩

/-- Bits that do not reach position 32 and do not stuff complete nothing, and write only the counter and the
accumulators. -/
theorem foldBits_of_short (h32 : s.bitsReceived.toNat + bs.length < 32) (hu : Unstuffed s bs) :
    ∃ hi lo, foldBits bs s =
      ({ s with hiWord := hi, loWord := lo, bitsReceived := BitVec.ofNat 6 (s.bitsReceived.toNat + bs.length) },
        List.replicate bs.length .incomplete) := by
  induction bs generalizing s with
  | nil => exact ⟨s.hiWord, s.loWord, by simp [foldBits]⟩
  | cons b bs ih =>
    rw [List.length_cons] at h32
    obtain ⟨hi, lo, hfold⟩ := foldBit_of_unstuffed (by omega) hu.head
    have hn : (foldBit b s).1.bitsReceived.toNat = s.bitsReceived.toNat + 1 := by
      rw [hfold]
      exact counter_succ_toNat (by omega)
    obtain ⟨hi', lo', htail⟩ := ih (by omega) (hu.tail (by rw [hfold]) hn)
    refine ⟨hi', lo', ?_⟩
    rw [foldBits, htail, hn, hfold]
    simp [List.replicate_succ, Nat.add_assoc, Nat.add_comm 1]

/-- The first bit of a frame leaves the counter at 1, or at 9 where it stuffs (R60, R63). -/
theorem foldBit_of_counter_zero (h0 : s.bitsReceived = 0) :
    ∃ hi, foldBit b s =
      ({ s with hiWord := hi, bitsReceived := if s.proto = .vendorVariant ∧ b = true then 9 else 1 },
        .incomplete) := by
  have hstuffs : stuffs s.proto b (s.bitsReceived.toNat + 1) = true ↔ s.proto = .vendorVariant ∧ b = true := by
    simp [stuffs_iff, h0]
  by_cases hs : s.proto = .vendorVariant ∧ b = true
  · rw [if_pos hs]
    exact ⟨1, foldBit_of_stuff (hstuffs.mpr hs)⟩
  · rw [if_neg hs]
    refine ⟨shiftIn s.hiWord b, ?_⟩
    rw [foldBit_of_high (by simp [h0]) (Bool.eq_false_iff.mpr (hs ∘ hstuffs.mp)), h0]
    rfl

/-! The data-bit SPACE (R53, R55) -/

/-- A SPACE that closes a data bit answers the state Derive leaves after the fold. -/
theorem space_of_bit (hb : s.protoBound = true) (hc : spaceClass us s = if b then .bit1 else .bit0)
    (hfold : foldBit b s = (v, out)) (hu : deriveEvents out v = some u) :
    exec (.space us) s = .next (u.respond (spaceResponse (if b then .bit1 else .bit0) out)) := by
  have hdec := (decodeClass_bit b s).trans hfold
  rw [space_of_class hb hc (by rw [hdec]; exact hu), hdec]

/-- The first bit of a frame does nothing but start it. -/
theorem space_of_first_bit (hb : s.protoBound = true) (hc : spaceClass us s = if b then .bit1 else .bit0)
    (h0 : s.bitsReceived = 0) :
    ∃ hi, exec (.space us) s = .next { s with
      hiWord := hi, bitsReceived := if s.proto = .vendorVariant ∧ b = true then 9 else 1,
      response := spaceResponse (if b then .bit1 else .bit0) .incomplete } := by
  obtain ⟨hi, hfold⟩ := foldBit_of_counter_zero (b := b) h0
  exact ⟨hi, space_of_bit hb hc hfold (deriveEvents_incomplete _)⟩

theorem pressCode_of_held (h : s.heldCode = some c) : pressCode c s = s := by
  obtain ⟨hv, rfl⟩ := State.heldCode_eq_some.mp h
  simp [pressCode, hv]

/-- The last bit of a frame of the held code announces the datagram and refreshes the deadline; it presses and
releases nothing (R61, R85). -/
theorem space_of_last_bit_held (hb : s.protoBound = true) (hc : spaceClass us s = if b then .bit1 else .bit0)
    (h31 : s.bitsReceived.toNat = 31) (hheld : s.heldCode = some (buttonCodeOf (shiftIn s.loWord b)))
    (hnow : s.nowMs.toNat + s.cfg.repeatTimeoutMs < 2 ^ 32) :
    exec (.space us) s = .next { s with
      loWord := shiftIn s.loWord b, bitsReceived := 32, addressField := s.hiWord,
      commandField := shiftIn s.loWord b, repeatDeadline := BitVec.ofNat 32 (s.nowMs.toNat + s.cfg.repeatTimeoutMs),
      hasUnread := true, eventOut := s.eventOut ++ [.datagramReady],
      response := spaceResponse (if b then .bit1 else .bit0) .datagram } := by
  rw [space_of_bit hb hc (foldBit_of_last h31)
    (deriveEvents_datagram_eq_some.mpr ⟨_, nextDeadline_of_lt hnow, rfl⟩), pressCode_of_held]
  · rfl
  · exact hheld

end

/-! The obligations -/

/-- Settles O48: the first bit puts the counter at overrun, and every further one finds it there. -/
theorem overrunUntilCounterReset : Obligations.OverrunUntilCounterReset :=
  fun _ bs h32 hne => Prod.ext (foldBits_of_overrun h32 hne) (foldBits_overrun_outcomes h32 bs)

/-- Settles O54: after the TICK the SPACE closes the first bit of a frame; before it, the last bit of one of the held
code, whose new deadline the TICK then finds not yet passed. -/
theorem spaceTickRaceBothOrders : Obligations.SpaceTickRaceBothOrders := by
  rintro us s b hb - hv hlate h31 hsync rfl hcode hnow
  have hc := spaceClass_of_bit hsync
  refine ⟨?_, ?_⟩
  · obtain ⟨hi, hspace⟩ := space_of_first_bit (us := us)
      (s := { s with eventOut := s.eventOut ++ [.released s.activeCode], bitsReceived := 0, activeValid := false,
                     response := 1 }) hb hc rfl
    refine ⟨_, _, tick_of_timedOut hb (timedOut_iff.mpr ⟨hv, hlate⟩), hspace, rfl, rfl, rfl, rfl, rfl, rfl, ?_⟩
    rw [spaceResponse_toNat]
    exact Nat.mul_add_mod ..
  · have hheld : s.heldCode = some (buttonCodeOf (shiftIn s.loWord _)) :=
      State.heldCode_eq_some.mpr ⟨hv, BitVec.eq_of_toNat_eq (by
        rw [buttonCodeOf_toNat, shiftIn_eq_appendBit]; exact hcode.symm)⟩
    have hdeadline := BitVec.toNat_ofNat (s.nowMs.toNat + s.cfg.repeatTimeoutMs) 32
    rw [Nat.mod_eq_of_lt hnow] at hdeadline
    refine ⟨_, _, space_of_last_bit_held hb hc h31 hheld hnow,
      tick_of_not_timedOut hb (Bool.eq_false_iff.mpr fun h => ?_), rfl, hdeadline, rfl, hv, rfl⟩
    have hpast := (timedOut_iff.mp h).2
    simp only [hdeadline] at hpast
    omega

/-- Settles O55: the release resets the counter, so the bits are the first ones of a frame and do not reach its
end. -/
theorem timeoutLosesArrivingFrame : Obligations.TimeoutLosesArrivingFrame := by
  intro s t bs hb hv hlate ht hlen hstuff
  have hrelease := Host.Outcome.next.inj (ht.symm.trans (tick_of_timedOut hb (timedOut_iff.mpr ⟨hv, hlate⟩)))
  have h0 : t.bitsReceived = 0 := by rw [hrelease]
  have hproto : t.proto = s.proto := by rw [hrelease]
  obtain ⟨hi, lo, hfold⟩ :=
    foldBits_of_short (by simpa [h0] using hlen) (unstuffed_of_counter_zero h0 (hproto ▸ hstuff))
  have hcount : (BitVec.ofNat 6 bs.length).toNat = bs.length := by
    rw [BitVec.toNat_ofNat, Nat.mod_eq_of_lt (by omega)]
  rw [hfold]
  exact ⟨rfl, by simpa [h0] using hcount, by rw [hrelease], by rw [hrelease]⟩

/-- Settles O38: the reset table, row by row. -/
theorem resetValues : Obligations.ResetValues := by
  unfold Obligations.ResetValues
  decide

/-- Settles O39: at reset nothing is bound, so MARK, SPACE and TICK are ignored and no SPACE reaches Derive; the reads
write at most the session, since the flag RD_RXFLAG clears is 0 already. -/
theorem anyOperationFirstAfterReset : Obligations.AnyOperationFirstAfterReset := by
  intro i cfg now
  cases i with
  | connect p pin => exact ⟨_, execConnect_eq p pin _, rfl, fun h => absurd rfl (h p pin)⟩
  | mark us => exact ⟨_, execMark_eq us _, rfl, fun _ => rfl⟩
  | space us => exact ⟨_, execSpace_eq_next.mpr (.inl ⟨rfl, rfl⟩), rfl, fun _ => rfl⟩
  | tick => exact ⟨_, tick_of_unbound rfl, rfl, fun _ => rfl⟩
  | rdButton => exact ⟨_, execRdButton_eq _, rfl, fun _ => rfl⟩
  | rdDatagram => exact ⟨_, execRdDatagram_eq _, rfl, fun _ => rfl⟩
  | rdRxflag => exact ⟨_, execRdRxflag_eq _, rfl, fun _ => rfl⟩

end Sys2Proof.Machine
end

section
/-! The encoder against the decoder and the opcode table (30_encoding.md R42 to R45), and the frame and event invariants
of every step (41_assembler.md R61, R62; 42_event_deriver.md R85 to R89), by the effects of the operations. -/

namespace Sys2Proof

variable {w : CommandWord} {i : Instr}

/-! Encoding and decoding (R42 to R45) -/

/-- A word with no bit under a mask is unchanged by clearing the mask. -/
theorem and_not_eq_self_of_and_eq_zero {n : Nat} {x m : BitVec n} (h : x &&& m = 0) : x &&& ~~~m = x := by
  ext k hk
  simpa using congrArg (·[k]) h

theorem encodedOpcode_statement (i : Instr) : Laws.EncodedOpcode.Statement i := by
  cases i with
  | connect p pin => exact Laws.EncodedOpcode.connect p pin
  | mark us => exact Laws.EncodedOpcode.mark us
  | space us => exact Laws.EncodedOpcode.space us
  | tick => exact Laws.EncodedOpcode.tick
  | rdButton => exact Laws.EncodedOpcode.rdButton
  | rdDatagram => exact Laws.EncodedOpcode.rdDatagram
  | rdRxflag => exact Laws.EncodedOpcode.rdRxflag

/-- The encoder leaves the should-be-zero bits 0, so what the decoder reads is the whole operand. -/
theorem operand_and_used (i : Instr) : i.operand &&& ~~~i.unusedOperandBits = i.operand := by
  obtain ⟨-, -, -, hunused⟩ := encodedOpcode_statement i
  rw [encode, operandField_packCommand] at hunused
  exact and_not_eq_self_of_and_eq_zero hunused

/-- The encoding of a decoded operation is the word's `op` and the operand bits the operation uses. -/
theorem encode_of_decode (h : decode w = .ok i) :
    encode i = packCommand (opField w) (operandField w &&& ~~~i.unusedOperandBits) := by
  obtain ⟨hop, hused⟩ := decode_eq_ok_iff.mp h
  rw [hop, hused, encode]

theorem canonicalWord_iff (h : decode w = .ok i) :
    canonicalWord w = true ↔ operandField w &&& i.unusedOperandBits = 0 := by
  simp [canonicalWord, h]

/-! The opcode table (R43) -/

/-- Every row looks at `op` alone. -/
theorem mask_of_mem_opcodeTable {r : OpcodeRow} (hr : r ∈ opcodeTable) : r.mask = 0xF00000000 := by
  revert r
  decide

theorem and_opMask (w : CommandWord) : w &&& 0xF00000000 = packCommand (opField w) 0 := by
  have hmask : (0xF00000000 : CommandWord) = ~~~((0 : BitVec 4) ++ BitVec.allOnes 32) := by decide
  rw [hmask, and_not_operandBits, BitVec.not_allOnes, BitVec.and_zero]
  rfl

/-- The rows a word matches are those of its `op` with operand 0. -/
theorem filter_matchesWord (w : CommandWord) :
    opcodeTable.filter (fun r => r.matchesWord w) =
      opcodeTable.filter (fun r => r.matchesWord (packCommand (opField w) 0)) := by
  refine List.filter_congr fun r hr => ?_
  rw [OpcodeRow.matchesWord, OpcodeRow.matchesWord, mask_of_mem_opcodeTable hr, and_opMask, and_opMask,
    opField_packCommand]

/-- An operation's `op` stands in the one row of its name. -/
theorem mnemonics_of_opcode (i : Instr) :
    (opcodeTable.filter (fun r => r.matchesWord (packCommand i.opcode 0))).map OpcodeRow.mnemonic =
      [i.mnemonic] := by
  cases i <;> (simp only [Instr.opcode, Instr.mnemonic]; decide)

/-- A reserved `op` stands in no row. -/
theorem mnemonics_of_reserved : ∀ op : Opcode, op.toNat = 0 ∨ 8 ≤ op.toNat →
    (opcodeTable.filter (fun r => r.matchesWord (packCommand op 0))).map OpcodeRow.mnemonic = [] := by
  decide

end Sys2Proof

namespace Sys2Proof.Machine

section
variable {i : Instr} {s t : State}

/-! The frame invariant (R61, R62, R85) -/

theorem frameInv_applyReset (s : State) (rest : List Input) : (s.applyReset rest).FrameInv := ⟨nofun, nofun⟩

/-- A counter of 32 comes from completion, which latches the accumulators, and a higher one from overrun, which keeps
them; a new hold is of the code just decoded. -/
theorem State.FrameInv.effect (hs : s.FrameInv) (e : Effect s i t) : t.FrameInv := by
  obtain ⟨hfinished, hheld⟩ := hs
  cases e with
  | count us n hi lo r hb hn hfull =>
    refine ⟨fun h32 => ?_, hheld⟩
    obtain ⟨hbits, rfl, rfl⟩ := hfull h32
    exact hfinished hbits
  | refresh => exact ⟨nofun, hheld⟩
  | complete => exact ⟨fun _ => ⟨rfl, rfl⟩, fun _ => rfl⟩
  | release => exact ⟨nofun, nofun⟩
  | _ => exact ⟨hfinished, hheld⟩

/-! The event output (R85, R87, R89) -/

theorem replayEvents_append (es new : List Event) :
    replayEvents (es ++ new) = new.foldl replayEvent (replayEvents es) := List.foldl_append

/-- Whatever was held, an observer of a datagram's notifications ends with its code held. -/
theorem replay_pressEvents (c : Code) (s : State) :
    (pressEvents c s).foldl replayEvent (some s.heldCode) = some (some c) := by
  cases hheld : s.heldCode with
  | none => rw [pressEvents_of_none_held hheld]; rfl
  | some h =>
    obtain ⟨hv, rfl⟩ := State.heldCode_eq_some.mp hheld
    by_cases hc : s.activeCode = c
    · rw [pressEvents_of_held (hc ▸ hheld), hc]; rfl
    · simp [pressEvents, hv, hc, replayEvent]

theorem pressEvents_length_le (c : Code) (s : State) : (pressEvents c s).length ≤ 2 := by
  unfold pressEvents
  split_ifs <;> simp

/-- An operation's own events take the observer from the button held before to the one held after. -/
theorem Effect.replay (e : Effect s i t) :
    ∃ es, t.eventOut = s.eventOut ++ es ∧ es.foldl replayEvent (some s.heldCode) = some t.heldCode := by
  cases e with
  | complete us d lo => exact ⟨_, rfl, replay_pressEvents (buttonCodeOf lo) s⟩
  | release r hb ht =>
    have hheld : s.heldCode = some s.activeCode := State.heldCode_eq_some.mpr ⟨(timedOut_iff.mp ht).1, rfl⟩
    exact ⟨_, rfl, hheld ▸ if_pos rfl⟩
  | _ => exact ⟨[], (List.append_nil _).symm, rfl⟩

theorem State.EventsMatchHeld.effect (hs : s.EventsMatchHeld) (e : Effect s i t) : t.EventsMatchHeld := by
  obtain ⟨es, hout, hreplay⟩ := e.replay
  rw [State.EventsMatchHeld, hout, replayEvents_append, show replayEvents s.eventOut = _ from hs, hreplay]

/-- Only SPACE and TICK emit: a completed frame at most three events, a release one (R89). -/
theorem Effect.eventOut (e : Effect s i t) :
    ∃ es, t.eventOut = s.eventOut ++ es ∧ es.length ≤ 3 ∧ ((∀ us, i ≠ .space us) → i ≠ .tick → es = []) := by
  cases e with
  | complete us d lo =>
    exact ⟨_, rfl, Nat.succ_le_succ (pressEvents_length_le _ s), fun hi => absurd rfl (hi us)⟩
  | release => exact ⟨_, rfl, by simp, fun _ ht => absurd rfl ht⟩
  | _ => exact ⟨[], (List.append_nil _).symm, Nat.zero_le 3, fun _ _ => rfl⟩

end

/-! The obligations -/

/-- Settles O26: the fields of the packed word are the operation's own. -/
theorem decodeOfEncode : Obligations.DecodeOfEncode := fun i =>
  decode_eq_ok_iff.mpr ⟨opField_packCommand _ _, by rw [encode, operandField_packCommand, operand_and_used]⟩

/-- Settles O41: a reset establishes the invariant; sampling the time touches nothing of it, and every effect
keeps it. -/
theorem stepKeepsFrameInvariants : Obligations.StepKeepsFrameInvariants := fun _ _ hs h =>
  step_keeps frameInv_applyReset (fun _ _ _ _ hs => ⟨hs.finished, hs.held⟩) (fun _ _ _ e hs => hs.effect e) hs h

/-- Settles O42: a reset empties the event output with nothing held; every effect keeps the two in step. -/
theorem stepKeepsEventsMatchingHeld : Obligations.StepKeepsEventsMatchingHeld := fun _ _ hs h =>
  step_keeps (fun _ _ => rfl) (fun _ _ _ _ hs => hs) (fun _ _ _ e hs => hs.effect e) hs h

/-- Settles O22: by the events of each effect. -/
theorem eventOutputAppends : Obligations.EventOutputAppends := fun _ _ _ h => (effect_of_exec h).eventOut

/-- Settles O27: the encoding is the word with its unused operand bits cleared, which changes no canonical word. -/
theorem encodeOfDecode : Obligations.EncodeOfDecode := by
  intro w i h
  refine ⟨(encode_of_decode h).trans (and_not_operandBits w _).symm, fun hcanon => ?_⟩
  rw [encode_of_decode h, and_not_eq_self_of_and_eq_zero ((canonicalWord_iff h).mp hcanon), packCommand_fields]

/-- Settles O28: the rows go by `op` alone, as the decoder does. -/
theorem opcodeTableRowsUnambiguous : Obligations.OpcodeTableRowsUnambiguous := by
  intro w
  rw [filter_matchesWord]
  cases h : decode w with
  | ok i => rw [decode_eq_ok_opcode h, mnemonics_of_opcode]
  | error e =>
    cases e with
    | reservedOpcode op =>
      have hop := (decode_eq_reserved_iff.mp h).1
      rw [← opField_toNat] at hop
      exact mnemonics_of_reserved _ hop

/-- Settles O30: the decoder runs on the twelve words. -/
theorem specWordsDecode : Obligations.SpecWordsDecode :=
  ⟨rfl, rfl, rfl, rfl, rfl, rfl, rfl, rfl, rfl, rfl, rfl, rfl⟩

end Sys2Proof.Machine
end

section
/-! The data-bit SPACE as a whole answer in each case of Fold (41_assembler.md R58 to R61), and the FRAME
pseudo-instruction (30_encoding.md R50) as a run of MARK and SPACE: the bits of its two words, folded one after another,
with Derive reached on the last of them. -/

namespace Sys2Proof.Machine

section
variable {us m : Duration} {now : Time} {s t : State} {b : Bool}

/-! The data-bit SPACE (R53, R55) -/

theorem spaceResponse_bit_incomplete (b : Bool) :
    spaceResponse (if b then .bit1 else .bit0) .incomplete = if b then 0x4 else 0x0 := by
  cases b <;> rfl

theorem spaceResponse_bit_datagram (b : Bool) :
    spaceResponse (if b then .bit1 else .bit0) .datagram = if b then 0x6 else 0x2 := by
  cases b <;> rfl

/-- A data bit that completes no frame answers the state Fold leaves. -/
theorem space_of_incomplete_bit (hb : s.protoBound = true) (hc : spaceClass us s = if b then .bit1 else .bit0)
    (hfold : foldBit b s = (t, .incomplete)) :
    exec (.space us) s = .next (t.respond (if b then 0x4 else 0x0)) := by
  rw [← spaceResponse_bit_incomplete]
  exact space_of_bit hb hc hfold (deriveEvents_incomplete t)

/-- Short of position 32, and without stuffing, the bit is appended to the accumulator of its position (R59). -/
theorem foldBit_of_shift (h31 : s.bitsReceived.toNat < 31)
    (hs : stuffs s.proto b (s.bitsReceived.toNat + 1) = false) :
    foldBit b s =
      ({ s with hiWord := if s.bitsReceived.toNat < 16 then appendBit s.hiWord b else s.hiWord,
                loWord := if s.bitsReceived.toNat < 16 then s.loWord else appendBit s.loWord b,
                bitsReceived := s.bitsReceived + 1 }, .incomplete) := by
  have hcount : BitVec.ofNat 6 (s.bitsReceived.toNat + 1) = s.bitsReceived + 1 := by
    rw [BitVec.ofNat_add, BitVec.ofNat_toNat, BitVec.setWidth_eq]
    rfl
  by_cases h16 : s.bitsReceived.toNat < 16
  · rw [foldBit_of_high h16 hs, hcount, shiftIn_eq_appendBit, if_pos h16, if_pos h16]
  · rw [foldBit_of_low (Nat.not_lt.mp h16) h31, hcount, shiftIn_eq_appendBit, if_neg h16, if_neg h16]

/-- The last bit of a frame latches both fields and derives its events (R61, R85). -/
theorem space_of_last_bit (hb : s.protoBound = true) (hc : spaceClass us s = if b then .bit1 else .bit0)
    (h31 : s.bitsReceived.toNat = 31) (hnow : s.nowMs.toNat + s.cfg.repeatTimeoutMs < 2 ^ 32) :
    exec (.space us) s = .next { s with
      loWord := appendBit s.loWord b, bitsReceived := 32, addressField := s.hiWord,
      commandField := appendBit s.loWord b,
      repeatDeadline := BitVec.ofNat 32 (s.nowMs.toNat + s.cfg.repeatTimeoutMs),
      hasUnread := true, activeValid := true, activeCode := buttonCodeOf (appendBit s.loWord b),
      response := if b then 0x6 else 0x2,
      eventOut := s.eventOut ++ .datagramReady :: pressEvents (buttonCodeOf (appendBit s.loWord b)) s } := by
  rw [space_of_bit hb hc (foldBit_of_last h31)
    (deriveEvents_datagram_eq_some.mpr ⟨_, nextDeadline_of_lt hnow, rfl⟩), pressCode_eq, List.append_assoc,
    spaceResponse_bit_datagram, shiftIn_eq_appendBit]
  rfl

/-- What Derive of a DATAGRAM leaves: the frame as it is, unread and held, with its new deadline (R85). -/
theorem deriveEvents_datagram_fields (h : deriveEvents .datagram s = some t) :
    t.addressField = s.addressField ∧ t.commandField = s.commandField ∧ t.bitsReceived = s.bitsReceived ∧
      t.hasUnread = true ∧ t.activeValid = true ∧ t.activeCode = buttonCodeOf s.commandField ∧
      t.repeatDeadline.toNat = s.nowMs.toNat + s.cfg.repeatTimeoutMs := by
  obtain ⟨d, hd, rfl⟩ := deriveEvents_datagram_eq_some.mp h
  rw [pressCode_eq]
  exact ⟨rfl, rfl, rfl, rfl, rfl, rfl, (nextDeadline_eq_some.mp hd).2⟩

/-- The notifications of a completed frame: none held, the same code held, another held (R85). -/
theorem datagramReady_pressEvents (c : Code) (s : State) :
    .datagramReady :: pressEvents c s =
      if s.activeValid = false then [.datagramReady, .pressed c]
      else if s.activeCode = c then [.datagramReady]
      else [.datagramReady, .released s.activeCode, .pressed c] := by
  unfold pressEvents
  cases s.activeValid <;> simp [apply_ite (Event.datagramReady :: ·)]

/-! Runs -/

theorem runTimed_append_of_next {xs ys : List TimedOp} (h : runTimed xs s = .next t) :
    runTimed (xs ++ ys) s = runTimed ys t := by
  induction xs generalizing s with
  | nil => cases h; rfl
  | cons x xs ih =>
    obtain ⟨u, hx, hxs⟩ := runTimed_cons_eq_next.mp h
    rw [List.cons_append, runTimed_cons_of_next hx, ih hxs]

/-! One pulse -/

/-- The operations of a list, all issued at one time. -/
def issuedAt (now : Time) (is : List Instr) : List TimedOp := is.map (fun i => (i, now))

theorem issuedAt_append (now : Time) (is js : List Instr) :
    issuedAt now (is ++ js) = issuedAt now is ++ issuedAt now js := List.map_append

/-- The state with another latched mark, time and response. -/
def State.withSample (s : State) (m : Duration) (now : Time) (r : Response) : State :=
  { s with markLatch := m, nowMs := now, response := r }

/-- A bound PULSE answers what its SPACE answers. -/
theorem runTimed_pulse (hb : s.protoBound = true) (h : exec (.space us) (s.withSample m now 0) = .next t) :
    runTimed (issuedAt now (pulseOps m us)) s = .next t := by
  have hmark : execTimed (.mark m, now) s = .next (s.withSample m now 0) :=
    (execMark_eq m (s.accept now s.inbox)).trans (by rw [State.accept_protoBound, if_pos hb]; rfl)
  have hspace : execTimed (.space us, now) (s.withSample m now 0) = .next t := h
  exact (runTimed_cons_of_next hmark).trans (runTimed_cons_of_next hspace)

/-- Fold reads neither the latched mark nor the time nor the last response. -/
theorem foldBit_withSample (b : Bool) (s : State) (m : Duration) (now : Time) (r : Response) :
    foldBit b (s.withSample m now r) = ((foldBit b s).1.withSample m now r, (foldBit b s).2) := by
  unfold foldBit countBit State.withSample
  split_ifs <;> rfl

theorem foldBits_withSample (bs : List Bool) (s : State) (m : Duration) (now : Time) (r : Response) :
    foldBits bs (s.withSample m now r) = ((foldBits bs s).1.withSample m now r, (foldBits bs s).2) := by
  induction bs generalizing s with
  | nil => rfl
  | cons b bs ih => rw [foldBits, foldBit_withSample, ih]; rfl

/-! The bits of a frame -/

/-- The `n` low bits of a number, most significant first. -/
def lowBits (v : Nat) : Nat → List Bool
  | 0 => []
  | n + 1 => v.testBit n :: lowBits v n

theorem lowBits_length (v n : Nat) : (lowBits v n).length = n := by
  induction n with
  | zero => rfl
  | succ n ih => rw [lowBits, List.length_cons, ih]

/-- BITS issues those bits one after another (R50). -/
theorem bitsOps_eq (v n : Nat) : bitsOps v n = (lowBits v n).flatMap bitOps := by
  induction n with
  | zero => rfl
  | succ n ih => rw [bitsOps, ih]; rfl

/-- The first bit of a word stands above the others. -/
theorem wordOfBits_cons (b : Bool) (bs : List Bool) :
    wordOfBits (b :: bs) = 2 ^ bs.length * BitVec.ofNat 16 b.toNat + wordOfBits bs := by
  rw [wordOfBits, List.foldl_cons, foldl_appendBit, appendBit_eq_add, mul_zero, zero_add]

theorem wordOfBits_lowBits (v n : Nat) : wordOfBits (lowBits v n) = BitVec.ofNat 16 (v % 2 ^ n) := by
  induction n with
  | zero => rw [pow_zero, Nat.mod_one]; rfl
  | succ n ih =>
    rw [lowBits, wordOfBits_cons, ih, lowBits_length, Nat.mod_pow_succ, ← Nat.toNat_testBit]
    simp only [← BitVec.natCast_eq_ofNat]
    push_cast
    ring

theorem wordOfBits_lowBits_field (a : Field16) : wordOfBits (lowBits a.toNat 16) = a := by
  rw [wordOfBits_lowBits, Nat.mod_eq_of_lt a.isLt, BitVec.ofNat_toNat, BitVec.setWidth_eq]

/-- An address below 256 has eight leading zeros. -/
theorem take_lowBits_of_lt {v : Nat} (h : v < 256) : ∀ b ∈ (lowBits v 16).take 8, b = false := by
  have hzero : ∀ n, 8 ≤ n → v.testBit n = false := fun n hn =>
    Nat.testBit_lt_two_pow (Nat.lt_of_lt_of_le h (Nat.pow_le_pow_right Nat.two_pos hn))
  simp [lowBits, hzero]

/-- The operations of BITS are two for each bit. -/
theorem flatMap_bitOps_length (bs : List Bool) : (bs.flatMap bitOps).length = 2 * bs.length := by
  induction bs with
  | nil => rfl
  | cons b bs ih =>
    have hb : (bitOps b).length = 2 := by cases b <;> rfl
    rw [List.flatMap_cons, List.length_append, hb, ih, List.length_cons]
    ring

/-- FRAME is a LEADER and the 32 bits of its two words (R50). -/
theorem expand_frame (a c : Nat) : (AsmOp.frame a c).expand =
    pulseOps 9000 4500 ++ (lowBits a 16 ++ lowBits c 16).flatMap bitOps := by
  rw [List.flatMap_append, ← bitsOps_eq, ← bitsOps_eq, ← List.append_assoc]
  rfl

end

/-! A frame as a run, under this hardware's thresholds -/

section
variable {timeout period : Nat} {table : List (String × Nat)} {now : Time} {s u : State} {b : Bool} {bs : List Bool}

theorem foldBit_frame (b : Bool) (s : State) :
    (foldBit b s).1.protoBound = s.protoBound ∧ (foldBit b s).1.cfg = s.cfg := by
  obtain ⟨n, hi, lo, a, k, h⟩ := decodeClass_frame (if b then .bit1 else .bit0) s
  rw [← decodeClass_bit, h]
  exact ⟨rfl, rfl⟩

/-- The space of BIT0 or BIT1 (R50). -/
def bitSpace (b : Bool) : Duration := if b then 1600 else 600

theorem bitOps_eq (b : Bool) : bitOps b = pulseOps 600 (bitSpace b) := by
  cases b <;> rfl

theorem spaceClass_bitSpace (hcfg : s.cfg = Config.withOpen timeout period table) (b : Bool) (r : Response) :
    spaceClass (bitSpace b) (s.withSample 600 now r) = if b then .bit1 else .bit0 := by
  have hclass : spaceClass (bitSpace b) (s.withSample 600 now r) = classify s.cfg (pulseSum 600 (bitSpace b)) := rfl
  rw [hclass, hcfg]
  cases b <;> rfl

/-- A bit leaves the state Derive leaves of the folded one. -/
theorem runTimed_bit (hb : s.protoBound = true) (hcfg : s.cfg = Config.withOpen timeout period table)
    (hu : deriveEvents (foldBit b s).2 ((foldBit b s).1.withSample 600 now 0) = some u) :
    ∃ r, runTimed (issuedAt now (bitOps b)) s = .next (u.respond r) := by
  rw [bitOps_eq]
  exact ⟨_, runTimed_pulse hb (space_of_bit (s := s.withSample 600 now 0) hb (spaceClass_bitSpace hcfg b 0)
    (foldBit_withSample b s 600 now 0) hu)⟩

/-- Bits of which the last completes a frame fold one after another, and Derive runs on the state they leave. -/
theorem runTimed_frame_bits {k : Nat} (hb : s.protoBound = true)
    (hcfg : s.cfg = Config.withOpen timeout period table)
    (hout : (foldBits bs s).2 = List.replicate k .incomplete ++ [.datagram])
    (hu : deriveEvents .datagram ((foldBits bs s).1.withSample 600 now 0) = some u) :
    ∃ r, runTimed (issuedAt now (bs.flatMap bitOps)) s = .next (u.respond r) := by
  induction k generalizing s bs with
  | zero =>
    cases bs with
    | nil => cases hout
    | cons b bs =>
      obtain ⟨hhead, htail⟩ := List.cons.inj hout
      obtain rfl : bs = [] := by
        cases bs with
        | nil => rfl
        | cons => cases htail
      rw [List.flatMap_singleton]
      exact runTimed_bit hb hcfg (by rw [hhead]; exact hu)
  | succ k ih =>
    cases bs with
    | nil => cases hout
    | cons b bs =>
      obtain ⟨hhead, htail⟩ := List.cons.inj hout
      obtain ⟨r, hrun⟩ : ∃ r, runTimed (issuedAt now (bitOps b)) s = .next ((foldBit b s).1.withSample 600 now r) :=
        runTimed_bit hb hcfg (by rw [hhead]; exact deriveEvents_incomplete _)
      obtain ⟨hb', hcfg'⟩ := foldBit_frame b s
      have hrest := foldBits_withSample bs (foldBit b s).1 600 now r
      rw [List.flatMap_cons, issuedAt_append, runTimed_append_of_next hrun]
      refine ih (hb'.trans hb) (hcfg'.trans hcfg) ?_ ?_
      · rw [hrest]; exact htail
      · rw [hrest]; exact hu

/-- The LEADER starts a frame at counter 0 (R52). -/
theorem runTimed_leader (hb : s.protoBound = true) (hcfg : s.cfg = Config.withOpen timeout period table)
    (ht : timeout < 2 ^ 32) :
    runTimed (issuedAt now (pulseOps 9000 4500)) s =
      .next (s.withSample 9000 now 0xC).clearCounter := by
  have hw : s.cfg.wf = true := hcfg ▸ (config_withOpen_wf_iff timeout period table).mpr ht
  have hlong : s.cfg.tLong ≤ (9000 : Duration).toNat + (4500 : Duration).toNat := by
    rw [hcfg]
    exact Nat.le_of_ble_eq_true rfl
  exact runTimed_pulse hb (space_of_long (s := s.withSample 9000 now 0) hb hw hlong)

/-- The 32 bits of two words, from counter 0, are a frame of those words. -/
theorem foldBits_lowBits {a c : Field16} (h0 : s.bitsReceived = 0) (hstuff : s.proto = .nec ∨ a.toNat < 256) :
    foldBits (lowBits a.toNat 16 ++ lowBits c.toNat 16) s =
      (s.withFrame a c, List.replicate 31 .incomplete ++ [.datagram]) := by
  have ha := lowBits_length a.toNat 16
  have htake : (lowBits a.toNat 16 ++ lowBits c.toNat 16).take 8 = (lowBits a.toNat 16).take 8 :=
    List.take_append_of_le_length (by omega)
  have hu : Unstuffed s (lowBits a.toNat 16 ++ lowBits c.toNat 16) :=
    unstuffed_of_counter_zero h0 (hstuff.imp_right fun hlt => htake ▸ take_lowBits_of_lt hlt)
  rw [foldBits_frame (k := 16) (by simp [h0]) (by simp [lowBits_length]) hu, List.take_left' ha, List.drop_left' ha,
    foldl_appendBit_of_length_16 ha, wordOfBits_lowBits_field, wordOfBits_lowBits_field]

end

/-! The obligations -/

/-- Settles O7: an unbound SPACE is ignored. -/
theorem spaceIgnoredBeforeConnect : Obligations.SpaceIgnoredBeforeConnect :=
  fun _ _ hb => execSpace_eq_next.mpr (.inl ⟨hb, rfl⟩)

/-- Settles O9: the bit is shifted, and an INCOMPLETE outcome adds nothing. -/
theorem spaceDataBitShiftsIn : Obligations.SpaceDataBitShiftsIn := by
  rintro us s b hb - hsync rfl h31 hstuff
  refine space_of_incomplete_bit hb (spaceClass_of_bit hsync) (foldBit_of_shift h31 ?_)
  exact Bool.eq_false_iff.mpr fun hs => hstuff (stuffs_iff.mp hs)

/-- Settles O10: the bit is a 1, and at a counter below 8 it stuffs. -/
theorem spaceStuffingRestartsFrame : Obligations.SpaceStuffingRestartsFrame := by
  intro us s hb hv hbit hsync h8
  have hclass : spaceClass us s = .bit1 := classify_of_lt_tSync hbit hsync
  exact space_of_incomplete_bit (b := true) hb hclass (foldBit_of_stuff (stuffs_iff.mpr ⟨hv, rfl, h8⟩))

/-- Settles O11: the bit overruns, whatever it is. -/
theorem spaceOverrunBitIgnored : Obligations.SpaceOverrunBitIgnored := by
  intro us s hb _ hsync h32
  simpa [State.respond] using
    space_of_incomplete_bit hb (spaceClass_of_bit hsync) (foldBit_of_overrun h32)

/-- Settles O12: the bit is the last of its frame, and its events are those of the new code. -/
theorem spaceCompletesFrame : Obligations.SpaceCompletesFrame := by
  rintro us s b code hb - hsync rfl h31 hcode hnow
  obtain rfl : code = buttonCodeOf (appendBit s.loWord _) :=
    BitVec.eq_of_toNat_eq (hcode.trans (buttonCodeOf_toNat _).symm)
  rw [← datagramReady_pressEvents]
  exact space_of_last_bit hb (spaceClass_of_bit hsync) h31 hnow

/-- Settles O13: SPACE is refused exactly when it hands Derive an outcome whose deadline wraps. -/
theorem spaceRefusedExactlyOnTimeWrap : Obligations.SpaceRefusedExactlyOnTimeWrap := by
  intro us s hw
  rw [exec_eq_timeWrap_iff, opOutcome_space_ne_incomplete_iff hw, and_assoc, and_comm (b := 2 ^ 32 ≤ _)]

/-- Settles O33: a reset is the next input, and the step performs it. -/
theorem stepResetsRecord : Obligations.StepResetsRecord :=
  fun _ _ hw hin => (step_of_wf hw).trans (runNext_of_reset hin)

/-- Settles O50: the sums are 1200, 2200, 13500, 11250 and 40600. -/
theorem pseudoInstructionClasses : Obligations.PseudoInstructionClasses :=
  fun _ _ _ => ⟨rfl, rfl, rfl, rfl, rfl, rfl, rfl, rfl, rfl, rfl⟩

/-- Settles O49: the LEADER puts the counter at 0, the bits of the two words fold to a frame of them, and Derive runs on
the last one. -/
theorem framePseudoDeliversFields : Obligations.FramePseudoDeliversFields := by
  intro s a c now timeout period table hb hcfg hnow hstuff
  rw [expand_frame]
  refine ⟨?_, ?_⟩
  · rw [List.length_append, flatMap_bitOps_length, List.length_append, lowBits_length, lowBits_length]
    rfl
  · have hfits : now.toNat + s.cfg.repeatTimeoutMs < 2 ^ 32 := hcfg ▸ hnow
    have hleader := runTimed_leader (now := now) hb hcfg (by omega)
    have hfold := foldBits_lowBits (c := c) (s := (s.withSample 9000 now 0xC).clearCounter) rfl hstuff
    obtain ⟨u, hu⟩ : ∃ u, deriveEvents .datagram
        (((s.withSample 9000 now 0xC).clearCounter.withFrame a c).withSample 600 now 0) = some u :=
      ⟨_, deriveEvents_datagram_eq_some.mpr ⟨_, nextDeadline_of_lt hfits, rfl⟩⟩
    obtain ⟨r, hbits⟩ := runTimed_frame_bits (s := (s.withSample 9000 now 0xC).clearCounter) hb hcfg
      (by rw [hfold]) (by rw [hfold]; exact hu)
    obtain ⟨haddress, hcommand, hcount, hunread, hvalid, hcode, hdeadline⟩ := deriveEvents_datagram_fields hu
    refine ⟨u.respond r, ?_, haddress, hcommand, hcount, hunread, hvalid, ?_, ?_⟩
    · exact (congrArg (runTimed · s) (issuedAt_append now _ _)).trans ((runTimed_append_of_next hleader).trans hbits)
    · rw [State.respond_activeCode, hcode]
      exact buttonCodeOf_toNat c
    · rw [State.respond_repeatDeadline, hdeadline]
      exact congrArg (now.toNat + Config.repeatTimeoutMs ·) hcfg

end Sys2Proof.Machine
end
